-- ==== Sys2Proof/Word.lean ====
section
/-! DEFINITION. The word types of D26: 32-bit register words, 8-bit port bytes, ports and pins, and the
three-valued quantities the spec builds from `UNKNOWN` (00_scope.md R10, R11; 10_state.md R20, R22). -/

namespace Sys2Proof

/-- `Word32` of R10: a 32-bit unsigned register value. -/
abbrev Word32 := BitVec 32

/-- `Word8` of R10: the 8 pin lanes of one port. -/
abbrev Byte := BitVec 8

/-- A port of a bank, 0..3 (R20). -/
abbrev Port := Fin 4

/-- A pin of a port, 0..7 (R22). -/
abbrev Pin := Fin 8

/-- The contents of a storage slot: a word, or `UNKNOWN` when nothing has written it since reset (R11). -/
inductive Slot where
  | unknown
  | word (v : Word32)
deriving DecidableEq, Repr, Inhabited

/-- A status bit (R28) or a line that depends on one (R37): 0, 1 or `UNKNOWN`. -/
inductive Tri where
  | lo
  | hi
  | unknown
deriving DecidableEq, Repr, Inhabited

end Sys2Proof
end

