-- ==== Sys2Proof/Syntax.lean ====
section
/-! DEFINITION. The syntax of the bus: registers, the 16 transactions of the opcode table, bus requests, the
items of a `SW` program, assembler lines, the names of D30's control state, and the records of the error codes
(10_state.md R20, R41; 30_encoding.md R90, R94, R97, R98; 60_exceptions.md R220). -/

namespace Sys2Proof

/-- The eight registers in the source's order (R20). `inp` is the register `IN`. -/
inductive Reg where
  | cnf
  | oe
  | out
  | inp
  | intSta
  | intEnb
  | intLvl
  | intClr
deriving DecidableEq, Repr, Inhabited

/-- The five registers of the storage kind (R21). -/
inductive StorageReg where
  | cnf
  | oe
  | out
  | intEnb
  | intLvl
deriving DecidableEq, Repr, Inhabited

/-- The register a storage register is. -/
def StorageReg.reg : StorageReg → Reg
  | .cnf => .cnf
  | .oe => .oe
  | .out => .out
  | .intEnb => .intEnb
  | .intLvl => .intLvl

/-- The four kinds of register (R21). -/
inductive Kind where
  | storage
  | input
  | status
  | command
deriving DecidableEq, Repr

/-- The kind of each register (R21, R32). -/
def Reg.kind : Reg → Kind
  | .cnf | .oe | .out | .intEnb | .intLvl => .storage
  | .inp => .input
  | .intSta => .status
  | .intClr => .command

/-- One constructor per row of spec/opcode_table.json (R94): the port, and the data word `D` of a write. Every
term is well-formed: `PORT` is a 2-bit field with no value out of range and `D` is any 32-bit word (R92, R93). -/
inductive Instr where
  | rdCnf (p : Port)
  | rdOe (p : Port)
  | rdOut (p : Port)
  | rdIn (p : Port)
  | rdIntSta (p : Port)
  | rdIntEnb (p : Port)
  | rdIntLvl (p : Port)
  | rdIntClr (p : Port)
  | wrCnf (p : Port) (d : Word32)
  | wrOe (p : Port) (d : Word32)
  | wrOut (p : Port) (d : Word32)
  | wrIn (p : Port) (d : Word32)
  | wrIntSta (p : Port) (d : Word32)
  | wrIntEnb (p : Port) (d : Word32)
  | wrIntLvl (p : Port) (d : Word32)
  | wrIntClr (p : Port) (d : Word32)
deriving DecidableEq, Repr, Inhabited

/-- The access sizes a bus request can carry: 1, 2, 4 or 8 bytes (R67, R90). -/
inductive Size where
  | b1
  | b2
  | b4
  | b8
deriving DecidableEq, Repr, Inhabited

/-- A bus request (R90): by physical address, or in the encoded form of a request inside a bank's window (the bank,
the 10-bit `TD` and the data word, ignored for a read). -/
inductive Request where
  | addr (a : Nat) (size : Size) (write : Bool) (d : Word32)
  | slot (bank : Nat) (td : BitVec 10) (d : Word32)
deriving DecidableEq, Repr, Inhabited

/-- An item of a `SW` program (R43): a bus request, an instruction fetch from an address (R75), or the host command
`ECHO.START` (R97, R182). -/
inductive SwItem where
  | bus (r : Request)
  | fetch (a : Nat)
  | echoStart
deriving DecidableEq, Repr, Inhabited

/-- A line of an assembler program (R97, R98), its operands not yet checked (R99). A register name is its characters.
`bank` is the optional bank index, 0 where it is left out; a `PIN` line is on the bank of its Pin (R140). -/
inductive Line where
  | blank
  | rd (bank : Nat) (reg : List Char) (port : Nat)
  | wr (bank : Nat) (reg : List Char) (port : Nat) (imm : Nat)
  | echoStart
  | pinDir (bank port : Nat) (out : Bool)
  | pinNoint (bank port : Nat)
  | pinEdgecfg (bank port : Nat)
  | pinSet (bank port : Nat) (level : Nat) (mask : Option Nat)
  | pinGet (bank port : Nat) (bit : Option Nat)
deriving DecidableEq, Repr

/-- The register of a name, or none when the name is not one of the eight (R20, R99). -/
def Reg.ofName (n : List Char) : Option Reg :=
  if n = "CNF".toList then some .cnf
  else if n = "OE".toList then some .oe
  else if n = "OUT".toList then some .out
  else if n = "IN".toList then some .inp
  else if n = "INT_STA".toList then some .intSta
  else if n = "INT_ENB".toList then some .intEnb
  else if n = "INT_LVL".toList then some .intLvl
  else if n = "INT_CLR".toList then some .intClr
  else none

/-- D30's control states (R41). -/
inductive EchoState where
  | off
  | idle
  | waitRise
  | waitFall
  | complete
  | halted
  | faulted
deriving DecidableEq, Repr, Inhabited

/-- D30's sub-steps within a state (R41). -/
inductive EchoPhase where
  | none
  | assert
  | hold
  | sample
  | stamp
  | report
  | gap
deriving DecidableEq, Repr, Inhabited

/-- The codes of R220, each with the value the table's last column records. -/
inductive FaultRec where
  | range (a : Nat)
  | size (a : Nat) (size : Size)
  | align (a : Nat)
  | roWrite (td : BitVec 10)
  | config (line : Nat)
  | mapping
  | echoTimeout (st : EchoState)
  | fetch (a : Nat)
  | startBusy
  | clkWrap
deriving DecidableEq, Repr, Inhabited

/-- The number of a code (R220). -/
def FaultRec.code : FaultRec → Nat
  | .range _ => 1
  | .size _ _ => 2
  | .align _ => 3
  | .roWrite _ => 4
  | .config _ => 5
  | .mapping => 6
  | .echoTimeout _ => 7
  | .fetch _ => 8
  | .startBusy => 9
  | .clkWrap => 10

/-- One turn of one agent, with that agent's own free choices (R7, R160, R161, R166). -/
inductive Event where
  | sw
  | echo
  | env (bank : Nat) (p : Port) (v : Byte)
  | clk (d : Nat)
  | ext (r : Request)
deriving DecidableEq, Repr, Inhabited

end Sys2Proof
end

