-- ==== Sys2Proof/Config.lean ====
section
/-! DEFINITION. The parameters of R9 and the literals of R8 as one plain record, and the free values: constants with
no body, of which nothing can be proved (00_scope.md R8, R9, R11; assumption log 1, 2, 3, 8, 12). -/

namespace Sys2Proof

/-- The five storage registers, each replicated over the 4 ports (R20, R21). -/
structure Csr where
  cnf : Vector Slot 4
  oe : Vector Slot 4
  out : Vector Slot 4
  intEnb : Vector Slot 4
  intLvl : Vector Slot 4
deriving DecidableEq, Repr

/-- Every storage slot `UNKNOWN`: the default of `CSR_RESET` (R9, R250). -/
def Csr.unknown : Csr where
  cnf := Vector.replicate 4 .unknown
  oe := Vector.replicate 4 .unknown
  out := Vector.replicate 4 .unknown
  intEnb := Vector.replicate 4 .unknown
  intLvl := Vector.replicate 4 .unknown

/-- `RESERVED_READ_MODE` (R9). -/
inductive ReservedRead where
  | asWritten
  | draw
deriving DecidableEq, Repr

/-- The parameters of R9 that the types do not fix, and the literals of R8. `N_BANKS` is the length of the state's
list of banks. A state carries its parameters and no step writes them (assumption log 1). -/
structure Config where
  /-- `BANK_BASE` of bank 0. -/
  bankBase : Nat
  /-- `BANK_STRIDE`. -/
  bankStride : Nat
  /-- `PADDR_WIDTH`. -/
  paddrWidth : Nat
  /-- `PAGE_SIZE` of the host. -/
  pageSize : Nat
  /-- `EDGE_BOTH`. -/
  edgeBoth : Word32
  /-- `RESERVED_READ_MODE`. -/
  reservedRead : ReservedRead
  /-- `IMPL_MASK` of CNF, OE, OUT and INT_ENB. -/
  implMask : Word32
  /-- `INT_LVL_IMPL_MASK`. -/
  intLvlImplMask : Word32
  /-- `CSR_RESET`. -/
  csrReset : Csr
  /-- `PIN_MASK`. -/
  pinMask : Byte
  /-- `TRIG_BANK`, `TRIG_PORT`, `TRIG_MASK`. -/
  trigBank : Nat
  trigPort : Port
  trigMask : Byte
  /-- `ECHO_BANK`, `ECHO_PORT`, `ECHO_BIT`. -/
  echoBank : Nat
  echoPort : Port
  echoBit : Nat
  /-- `T_TRIG_US`, `T_GAP_US`, `US_PER_CM`. -/
  tTrigUs : Nat
  tGapUs : Nat
  usPerCm : Nat
  /-- `N_CYCLES`: none for unbounded. -/
  nCycles : Option Nat
  /-- `ECHO_TIMEOUT_US`. -/
  echoTimeoutUs : Option Nat
  /-- `EXTERNAL_WRITERS`. -/
  externalWriters : Bool
  /-- `CLK_WIDTH`: none for unbounded. -/
  clkWidth : Option Nat
  /-- `CNF_GPIO_ALL`, `OE_OUTPUT`, `OE_INPUT`, `INT_ENB_NONE`, `INT_STA_ACK`, `INT_CLR_ALL` (R8). -/
  cnfGpioAll : Word32
  oeOutput : Word32
  oeInput : Word32
  intEnbNone : Word32
  intStaAck : Word32
  intClrAll : Word32
deriving DecidableEq, Repr

/-! The OPEN parameters of R9, one constant with no body each. -/

opaque Config.openBankBase : Nat
opaque Config.openBankStride : Nat
/-- `N_BANKS` less one: a platform has at least the bank this spec describes (R1, R78). -/
opaque Config.openMoreBanks : Nat
opaque Config.openPaddrWidth : Nat
opaque Config.openPageSize : Nat
opaque Config.openEdgeBoth : Word32
opaque Config.openIntLvlImplMask : Word32
opaque Config.openTrigBank : Nat
opaque Config.openTrigPort : Port
opaque Config.openEchoBank : Nat
opaque Config.openEchoPort : Port
opaque Config.openNCycles : Option Nat

/-- The parameters at their values of R9: the decided defaults, and the body-less constants for the OPEN ones. Nothing makes
those satisfy `Config.placed`: R78's "windows do not overlap" is a premise of the statements that need it (DESIGN CHOICE,
assumption log 1). -/
def Config.platform : Config where
  bankBase := Config.openBankBase
  bankStride := Config.openBankStride
  paddrWidth := Config.openPaddrWidth
  pageSize := Config.openPageSize
  edgeBoth := Config.openEdgeBoth
  reservedRead := .asWritten
  implMask := 0x000000FF
  intLvlImplMask := Config.openIntLvlImplMask
  csrReset := Csr.unknown
  pinMask := 0xFF
  trigBank := Config.openTrigBank
  trigPort := Config.openTrigPort
  trigMask := 0xFF
  echoBank := Config.openEchoBank
  echoPort := Config.openEchoPort
  echoBit := 5
  tTrigUs := 10
  tGapUs := 1000000
  usPerCm := 58
  nCycles := Config.openNCycles
  echoTimeoutUs := none
  externalWriters := false
  clkWidth := none
  cnfGpioAll := 0x000000FF
  oeOutput := 0x000000FF
  oeInput := 0x00000000
  intEnbNone := 0x00000000
  intStaAck := 0x000000FF
  intClrAll := 0x00FFFFFF

/-! The free values. -/

/-- `draw32()` (R11): the word at a position of the state's counter `draws`. -/
opaque Config.freeWord : Nat → Word32

/-- `draw1()` (R11): the bit at a position of the state's counter `draws`. -/
opaque Config.freeBit : Nat → Bool

/-- The turn the machine takes when the state's list `sched` is empty: any agent may take the next step (R7). -/
opaque Config.freeEvent : Nat → Event

/-- The pad levels of a bank's port at reset: arbitrary (R34, R250). -/
opaque Config.resetExt : Nat → Port → Byte

/-- The clock at reset: arbitrary (R35, R250). -/
opaque Config.resetClk : Nat

/-- `IntEvent(lvl, i, old, new)` for a level word other than `EDGE_BOTH`: OPEN (R163). -/
opaque Config.intEventOther : Word32 → Pin → Bool → Bool → Bool

end Sys2Proof
end

