-- ==== Sys2Proof/WellFormed.lean ====
section
/-! DEFINITION. The checks on what is written down before the machine runs: assembler lines (30_encoding.md R99) and the
platform's placement of the windows (20_memory.md R78; 40_csr_access.md R128). Every term of `Instr` is well-formed by its
types (R92). D30's configuration check (R180) is `Config.echoWellFormed` in Machine/Echo.lean. -/

namespace Sys2Proof

/-- The assembler's checks of one line on a platform of `n` banks (R99): bank index, port, register name, immediate and
bit index. A level is 0 or 1 and a mask is 8 bits wide (DEDUCED from R144, assumption log 9). `PIN.GET` with no bit is not
checked for `ECHO_BIT` (DESIGN CHOICE, assumption log 15). -/
def Line.wellFormed (n : Nat) : Line → Bool
  | .blank => true
  | .rd b r p => decide (b < n) && (Reg.ofName r).isSome && decide (p < 4)
  | .wr b r p imm => decide (b < n) && (Reg.ofName r).isSome && decide (p < 4) && decide (imm < 2 ^ 32)
  | .echoStart => true
  | .pinDir b p _ => decide (b < n) && decide (p < 4)
  | .pinNoint b p => decide (b < n) && decide (p < 4)
  | .pinEdgecfg b p => decide (b < n) && decide (p < 4)
  | .pinSet b p v m => decide (b < n) && decide (p < 4) && decide (v < 2) && m.all fun m => decide (m < 256)
  | .pinGet b p k => decide (b < n) && decide (p < 4) && k.all fun k => decide (k < 8)

/-- The windows of `n` banks do not overlap (R78) and their addresses do not wrap `PADDR_WIDTH` (R128). -/
def Config.placed (cfg : Config) (n : Nat) : Bool :=
  (decide (n ≤ 1) || decide (0x80 ≤ cfg.bankStride)) &&
    decide (cfg.bankBase + (n - 1) * cfg.bankStride + 0x80 ≤ 2 ^ cfg.paddrWidth)

end Sys2Proof
end

