-- ==== Sys2Proof/Decode.lean ====
section
/-! DEFINITION. The transaction descriptor, the address map, decoding of descriptors, requests and byte lists, and the encoder
(20_memory.md R61, R65, R67, R68, R77; 30_encoding.md R90 to R95; 60_exceptions.md R222). -/

namespace Sys2Proof

/-- The register index of R20. -/
def Reg.index : Reg → BitVec 3
  | .cnf => 0
  | .oe => 1
  | .out => 2
  | .inp => 3
  | .intSta => 4
  | .intEnb => 5
  | .intLvl => 6
  | .intClr => 7

/-- The register a 3-bit `REG` field selects (R92). -/
def Reg.ofIndex (r : BitVec 3) : Reg :=
  match r.toNat with
  | 0 => .cnf
  | 1 => .oe
  | 2 => .out
  | 3 => .inp
  | 4 => .intSta
  | 5 => .intEnb
  | 6 => .intLvl
  | _ => .intClr

/-- `SZ`, the base-2 logarithm of the size (R90). -/
def Size.bits : Size → BitVec 2
  | .b1 => 0
  | .b2 => 1
  | .b4 => 2
  | .b8 => 3

/-- The size a `SZ` field stands for (R90). -/
def Size.ofBits (z : BitVec 2) : Size :=
  match z.toNat with
  | 0 => .b1
  | 1 => .b2
  | 2 => .b4
  | _ => .b8

/-- `off(r, p) = 16*r + 4*p` (R61). -/
def slotOffset (r : Reg) (p : Port) : Nat :=
  16 * r.index.toNat + 4 * p.val

/-- The offset in the padded view: register `r` of the view placed at byte `4*p` (R64). -/
def paddedOffset (r : Reg) (p : Port) : Nat :=
  4 * p.val + r.index.toNat * (4 + 3 * 4)

/-- `BANK_SIZE` (R65). -/
def bankSize : Nat :=
  0x80

/-- The base address of bank `b` (R78). -/
def Config.baseOf (cfg : Config) (b : Nat) : Nat :=
  cfg.bankBase + b * cfg.bankStride

/-- `addr(r, p)` of bank `b` (R61, R129). -/
def Config.slotAddr (cfg : Config) (b : Nat) (r : Reg) (p : Port) : Nat :=
  cfg.baseOf b + slotOffset r p

/-- The host's virtual address of a slot, `map_base` being where the page of the base is mapped (R77). -/
def Config.mappedAddr (cfg : Config) (mapBase b : Nat) (r : Reg) (p : Port) : Nat :=
  mapBase + cfg.baseOf b % cfg.pageSize + slotOffset r p

/-! The fields of a descriptor (R90). -/

def tdSize (td : BitVec 10) : BitVec 2 :=
  td.extractLsb' 8 2

def tdWrite (td : BitVec 10) : Bool :=
  td.getLsbD 7

def tdReg (td : BitVec 10) : BitVec 3 :=
  td.extractLsb' 4 3

def tdPort (td : BitVec 10) : Port :=
  ⟨(td.extractLsb' 2 2).toNat, (td.extractLsb' 2 2).isLt⟩

def tdByte (td : BitVec 10) : BitVec 2 :=
  td.extractLsb' 0 2

/-- `TD[6:0]`, the byte offset (R90). -/
def tdOffset (td : BitVec 10) : Nat :=
  (td.extractLsb' 0 7).toNat

/-- The descriptor of a request at byte offset `off` of a window (R91). -/
def tdOf (size : Size) (write : Bool) (off : Nat) : BitVec 10 :=
  size.bits ++ BitVec.ofBool write ++ BitVec.ofNat 7 off

/-- `opcode(W, r)` at port `p` with data `d` (R91, R94). -/
def opcode (write : Bool) (r : Reg) (p : Port) (d : Word32) : Instr :=
  match write, r with
  | false, .cnf => .rdCnf p
  | false, .oe => .rdOe p
  | false, .out => .rdOut p
  | false, .inp => .rdIn p
  | false, .intSta => .rdIntSta p
  | false, .intEnb => .rdIntEnb p
  | false, .intLvl => .rdIntLvl p
  | false, .intClr => .rdIntClr p
  | true, .cnf => .wrCnf p d
  | true, .oe => .wrOe p d
  | true, .out => .wrOut p d
  | true, .inp => .wrIn p d
  | true, .intSta => .wrIntSta p d
  | true, .intEnb => .wrIntEnb p d
  | true, .intLvl => .wrIntLvl p d
  | true, .intClr => .wrIntClr p d

/-- What a descriptor decodes to: an instruction, or the defect it is rejected for (R91, R95). -/
inductive TdResult where
  | instr (i : Instr)
  | badSize
  | badAlign
deriving DecidableEq, Repr

/-- The checks of R91 on a descriptor, in its order. -/
def decodeTd (td : BitVec 10) (d : Word32) : TdResult :=
  if tdSize td ≠ 0b10 then .badSize
  else if tdByte td ≠ 0b00 then .badAlign
  else .instr (opcode (tdWrite td) (Reg.ofIndex (tdReg td)) (tdPort td) d)

/-- What a request decodes to: an instruction on a bank, or a fault (R91). -/
inductive Decoded where
  | ok (bank : Nat) (i : Instr)
  | fault (f : FaultRec)
deriving DecidableEq, Repr

/-- A descriptor at bank `b`, with the recorded values of R220. -/
def decodeInBank (cfg : Config) (b : Nat) (td : BitVec 10) (d : Word32) : Decoded :=
  match decodeTd td d with
  | .instr i => .ok b i
  | .badSize => .fault (.size (cfg.baseOf b + tdOffset td) (Size.ofBits (tdSize td)))
  | .badAlign => .fault (.align (cfg.baseOf b + tdOffset td))

/-- Whether address `a` is in the window of bank `b` (R65). -/
def Config.inWindow (cfg : Config) (a b : Nat) : Bool :=
  decide (cfg.baseOf b ≤ a) && decide (a < cfg.baseOf b + bankSize)

/-- The bank whose window holds `a`, among `n` banks (R91). R78 excludes overlapping windows, which `Config.placed` says; on a
platform that has them all the same, the lowest bank index answers (DESIGN CHOICE, assumption log 1). -/
def Config.findBank (cfg : Config) (n a : Nat) : Option Nat :=
  (List.range n).find? (cfg.inWindow a)

/-- Decoding a bus request on a platform of `n` banks (R91, R222). -/
def decodeRequest (cfg : Config) (n : Nat) : Request → Decoded
  | .addr a size write d =>
    match cfg.findBank n a with
    | none => .fault (.range a)
    | some b => decodeInBank cfg b (tdOf size write (a - cfg.baseOf b)) d
  | .slot b td d =>
    if b < n then decodeInBank cfg b td d
    else .fault (.range (cfg.baseOf b + tdOffset td))

/-- The register an instruction names. -/
def Instr.reg : Instr → Reg
  | .rdCnf _ | .wrCnf _ _ => .cnf
  | .rdOe _ | .wrOe _ _ => .oe
  | .rdOut _ | .wrOut _ _ => .out
  | .rdIn _ | .wrIn _ _ => .inp
  | .rdIntSta _ | .wrIntSta _ _ => .intSta
  | .rdIntEnb _ | .wrIntEnb _ _ => .intEnb
  | .rdIntLvl _ | .wrIntLvl _ _ => .intLvl
  | .rdIntClr _ | .wrIntClr _ _ => .intClr

/-- Whether an instruction is a write. -/
def Instr.isWrite : Instr → Bool
  | .rdCnf _ | .rdOe _ | .rdOut _ | .rdIn _ | .rdIntSta _ | .rdIntEnb _ | .rdIntLvl _ | .rdIntClr _ => false
  | .wrCnf _ _ | .wrOe _ _ | .wrOut _ _ | .wrIn _ _ | .wrIntSta _ _ | .wrIntEnb _ _ | .wrIntLvl _ _
  | .wrIntClr _ _ => true

/-- The port an instruction names. -/
def Instr.port : Instr → Port
  | .rdCnf p | .rdOe p | .rdOut p | .rdIn p | .rdIntSta p | .rdIntEnb p | .rdIntLvl p | .rdIntClr p => p
  | .wrCnf p _ | .wrOe p _ | .wrOut p _ | .wrIn p _ | .wrIntSta p _ | .wrIntEnb p _ | .wrIntLvl p _
  | .wrIntClr p _ => p

/-- The data word of a write; 0 stands for the ignored data of a read (R90). -/
def Instr.data : Instr → Word32
  | .rdCnf _ | .rdOe _ | .rdOut _ | .rdIn _ | .rdIntSta _ | .rdIntEnb _ | .rdIntLvl _ | .rdIntClr _ => 0
  | .wrCnf _ d | .wrOe _ d | .wrOut _ d | .wrIn _ d | .wrIntSta _ d | .wrIntEnb _ d | .wrIntLvl _ d
  | .wrIntClr _ d => d

/-- The descriptor of an instruction: `SZ = 0b10`, `W`, `REG`, `PORT`, `BO = 0b00` (R90, R94). -/
def encodeTd (i : Instr) : BitVec 10 :=
  0b10#2 ++ BitVec.ofBool i.isWrite ++ i.reg.index ++ BitVec.ofNat 2 i.port.val ++ 0b00#2

/-- The encoded request of an instruction at bank `b` (R90). -/
def encode (b : Nat) (i : Instr) : Request :=
  .slot b (encodeTd i) i.data

/-- Byte `k` of a word, little-endian: bits `8k+7:8k` (R69). -/
def wordByte (w : Word32) (k : Nat) : Byte :=
  w.extractLsb' (8 * k) 8

/-- The word of four bytes, the first the lowest (R69). -/
def wordOfBytes (b0 b1 b2 b3 : Byte) : Word32 :=
  b3 ++ b2 ++ b1 ++ b0

/-- What a byte list decodes to, or the defect it is rejected for. -/
inductive BytesResult where
  | instr (i : Instr) (rest : List Byte)
  | truncated
  | notADescriptor
  | badSize
  | badAlign
deriving DecidableEq, Repr

/-- A transaction written as bytes: the descriptor in two bytes, low byte first, bits 15:10 zero, and for a write the four
bytes of the data word after it (the model's notation: assumption log 7). -/
def decodeBytes : List Byte → BytesResult
  | t0 :: t1 :: rest =>
    if t1.extractLsb' 2 6 ≠ 0 then .notADescriptor
    else
      let td : BitVec 10 := t1.extractLsb' 0 2 ++ t0
      if tdSize td = 0b10 ∧ tdByte td = 0b00 ∧ tdWrite td = true then
        match rest with
        | d0 :: d1 :: d2 :: d3 :: rest =>
          .instr (opcode true (Reg.ofIndex (tdReg td)) (tdPort td) (wordOfBytes d0 d1 d2 d3)) rest
        | _ => .truncated
      else
        match decodeTd td 0 with
        | .instr i => .instr i rest
        | .badSize => .badSize
        | .badAlign => .badAlign
  | _ => .truncated

/-- The bytes of an instruction in the layout of `decodeBytes`. -/
def encodeBytes (i : Instr) : List Byte :=
  (encodeTd i).extractLsb' 0 8 :: ((encodeTd i).extractLsb' 8 2).setWidth 8 ::
    if i.isWrite then [wordByte i.data 0, wordByte i.data 1, wordByte i.data 2, wordByte i.data 3] else []

/-- Byte `k` of an instruction whose bits are `w`, bit 0 the least significant bit of its first byte. -/
def tableByte (nbits w k : Nat) : Byte :=
  BitVec.ofNat 8 (w % 2 ^ nbits / 2 ^ (8 * k))

/-- The bytes of an instruction whose bits are `w`, every bit above `nbits` zero. -/
def tableBytes (nbits w : Nat) : List Byte :=
  [tableByte nbits w 0, tableByte nbits w 1, tableByte nbits w 2, tableByte nbits w 3, tableByte nbits w 4,
    tableByte nbits w 5]

/-- The instruction the decoder reads from the bits `w`, numbered as spec/opcode_table.json numbers them. -/
def decodeTableWord (nbits w : Nat) : Option Instr :=
  match decodeBytes (tableBytes nbits w) with
  | .instr i _ => some i
  | .truncated | .notADescriptor | .badSize | .badAlign => none

end Sys2Proof
end

