-- ==== Sys2Proof/Machine/State.lean ====
section
/-! DEFINITION. The state of the machine and its reset value (10_state.md R20 to R44; 70_reset_and_hazards.md R250), the
fault and refusal reasons. Plain data throughout. -/

namespace Sys2Proof.Machine

/-- One bank of D26: its storage registers (R20, R21), latched status bits (R28), external pad levels (R34) and edge-latch
memory (R33). `IN` and `INT_CLR` hold nothing (R27, R31). -/
structure Bank where
  csr : Csr
  sta : Vector (Vector Tri 8) 4
  ext : Vector Byte 4
  latPrev : Vector Byte 4
deriving DecidableEq, Repr

/-- The agents that issue transactions (R44). -/
inductive Master where
  | sw
  | echo
  | ext
deriving DecidableEq, Repr

/-- The bus port of R164 while a request is on it: whose request it is, the bank its address selected, and the read-data
lines. The model's own fields (assumption log 6). -/
structure Bus where
  master : Master
  bank : Nat
  rdata : Word32
deriving DecidableEq, Repr

/-- The `SW` agent (R43, R44). -/
structure Sw where
  prog : List SwItem
  k : Nat
  rdlog : List Word32
  fault : Option FaultRec
deriving DecidableEq, Repr

/-- A report record (R196). -/
structure Report where
  cycle : Nat
  tRise : Nat
  tFall : Nat
  elapsedUs : Nat
  distanceCm : Rat
deriving DecidableEq, Repr

/-- D30's registers (R41); `none` of an optional register is the spec's `UNSET`. -/
structure Echo where
  state : EchoState
  phase : EchoPhase
  prevEcho : Bool
  tRise : Option Nat
  tFall : Option Nat
  tMark : Nat
  tWait : Nat
  elapsedUs : Option Nat
  distanceCm : Option Rat
  cyclesDone : Nat
  reports : List Report
  fault : Option FaultRec
deriving DecidableEq, Repr

/-- The whole machine. `cfg` holds the parameters (assumption log 1); `draws`, `sched` and `events` are the model's own:
the position in the free values of R11 and the turns the agents are to take (assumption log 2, 3). -/
structure State where
  cfg : Config
  banks : List Bank
  clk : Nat
  clkFault : Option FaultRec
  sw : Sw
  echo : Echo
  extFault : Option FaultRec
  bus : Bus
  refused : Bool
  draws : Nat
  sched : List Event
  events : Nat
deriving DecidableEq, Repr

/-- Why the machine stops. All three are raised by D30's `REPORT` step alone, in states no run reaches, and are safe
(assumption log 11). -/
inductive Fault where
  /-- `REPORT` with `t_rise` or `t_fall` `UNSET`: the spec gives no difference of them (R189). Safe. -/
  | unsetTimestamp
  /-- `REPORT` with `t_fall < t_rise`: the spec's subtraction never underflows (R193). Safe. -/
  | negativeElapsed
  /-- `REPORT` with `US_PER_CM = 0`: the configuration is not well-formed (R180). Safe. -/
  | zeroDivisor
deriving DecidableEq, Repr

/-- Why a step has no meaning. -/
inductive Refusal where
  /-- An instruction with no meaning yet, raised by `exec`. Safe. -/
  | notModelled (mnemonic : String)
  /-- `ECHO.START` with a D30 configuration that is not well-formed (R180), raised by the `SW` agent's step. Safe. -/
  | illFormedEcho
deriving DecidableEq, Repr

/-- A bank at reset: storage as `CSR_RESET`, every status bit `UNKNOWN`, the edge latch equal to the pads (R250). -/
def Bank.reset (csr : Csr) (ext : Vector Byte 4) : Bank where
  csr := csr
  sta := Vector.replicate 4 (Vector.replicate 8 .unknown)
  ext := ext
  latPrev := ext

/-- `SW` at reset (R250), with no program loaded (assumption log 9). -/
def Sw.reset : Sw where
  prog := []
  k := 0
  rdlog := []
  fault := none

/-- D30 at reset (R41, R250). -/
def Echo.reset : Echo where
  state := .off
  phase := .none
  prevEcho := false
  tRise := none
  tFall := none
  tMark := 0
  tWait := 0
  elapsedUs := none
  distanceCm := none
  cyclesDone := 0
  reports := []
  fault := none

/-- The machine at reset (R250) with given parameters, banks' pad levels and clock. -/
def State.resetWith (cfg : Config) (pads : List (Vector Byte 4)) (clk : Nat) : State where
  cfg := cfg
  banks := pads.map (Bank.reset cfg.csrReset)
  clk := clk
  clkFault := none
  sw := Sw.reset
  echo := Echo.reset
  extFault := none
  bus := { master := .sw, bank := 0, rdata := 0 }
  refused := false
  draws := 0
  sched := []
  events := 0

/-- The free pad levels of bank `b` at reset (R34). -/
def resetPads (b : Nat) : Vector Byte 4 :=
  Vector.ofFn fun p => Config.resetExt b p

/-- The machine right after reset (R250), on the platform of R9. -/
def State.reset : State :=
  State.resetWith Config.platform
    (resetPads 0 :: (List.range Config.openMoreBanks).map fun b => resetPads (b + 1)) Config.resetClk

end Sys2Proof.Machine
end

