-- ==== Sys2Proof/Machine/Operands.lean ====
section
/-! DEFINITION. What a transaction moves: the storage slots by name, and the data words the reads return
(40_csr_access.md R110, R118, R120; 20_memory.md R69). -/

namespace Sys2Proof

/-- `csr[r][p]` (R11). -/
def Csr.get (c : Csr) (r : StorageReg) (p : Port) : Slot :=
  match r with
  | .cnf => c.cnf[p]
  | .oe => c.oe[p]
  | .out => c.out[p]
  | .intEnb => c.intEnb[p]
  | .intLvl => c.intLvl[p]

/-- `csr[r][p] <- v` (R11). -/
def Csr.set (c : Csr) (r : StorageReg) (p : Port) (v : Slot) : Csr :=
  match r with
  | .cnf => { c with cnf := c.cnf.set p v }
  | .oe => { c with oe := c.oe.set p v }
  | .out => { c with out := c.out.set p v }
  | .intEnb => { c with intEnb := c.intEnb.set p v }
  | .intLvl => { c with intLvl := c.intLvl.set p v }

end Sys2Proof

namespace Sys2Proof.Machine

/-- `IMPL_MASK[r]` (R9). -/
def implMask (cfg : Config) : StorageReg → Word32
  | .intLvl => cfg.intLvlImplMask
  | .cnf | .oe | .out | .intEnb => cfg.implMask

/-- The word `read_storage` returns for slot contents `v`, given the word `d` drawn (R110). -/
def readValue (cfg : Config) (r : StorageReg) (v : Slot) (d : Word32) : Word32 :=
  match v with
  | .unknown => d
  | .word v =>
    match cfg.reservedRead with
    | .asWritten => v
    | .draw => (v &&& implMask cfg r) ||| (d &&& ~~~implMask cfg r)

/-- A word with the pin lanes `b` in bits 7:0 and the drawn word's bits 31:8 above them (R118, R120). -/
def laneWord (b : Byte) (d : Word32) : Word32 :=
  d.extractLsb' 8 24 ++ b

/-- Bits 7:0 of a read of `INT_STA`: the latched bit, or a drawn one where it is `UNKNOWN` (R120). -/
def statusByte (sta : Vector Tri 8) (draw : Pin → Bool) : Byte :=
  BitVec.ofFnLE fun i : Pin =>
    match sta[i] with
    | .lo => false
    | .hi => true
    | .unknown => draw i

/-- The level `PIN.GET` takes from the data word: bit `k` alone (R145, R261). -/
def pinLevel (data : Word32) (k : Nat) : Bool :=
  data.getLsbD k

/-- The data word of `PIN.SET` and of D30's trigger: the mask, zero-extended, for HIGH, and 0 for LOW (R144, R183). -/
def levelWord (mask : Byte) (high : Bool) : Word32 :=
  if high then mask.setWidth 32 else 0

end Sys2Proof.Machine
end

