-- ==== Sys2Proof/Machine/Flags.lean ====
section
/-! DEFINITION. The status bits and what depends on them: write-1-to-clear, the edge latch, the pad drive and the interrupt
output (10_state.md R36, R37; 40_csr_access.md R121, R127; 42_pad_events.md R162, R163). -/

namespace Sys2Proof.Machine

/-- Clear the bits the data word has a 1 for; bits 31:8 are ignored (R121, R127). -/
def clearStatus (sta : Vector Tri 8) (d : Word32) : Vector Tri 8 :=
  Vector.ofFn fun i : Pin => if d.getLsbD i then .lo else sta[i]

/-- `IntEvent(lvl, i, old, new)`: the law of R163 for `EDGE_BOTH`, and the free predicate for every other level word
(assumption log 12). -/
def intEvent (edgeBoth lvl : Word32) (i : Pin) (old new : Bool) : Bool :=
  if lvl = edgeBoth then old != new else Config.intEventOther lvl i old new

/-- Whether the latch records an event of pin `i`: a draw while `INT_LVL` is `UNKNOWN` (R162). -/
def latchEvent (edgeBoth : Word32) (lvl : Slot) (draw : Pin → Bool) (i : Pin) (old new : Bool) : Bool :=
  match lvl with
  | .unknown => draw i
  | .word lvl => intEvent edgeBoth lvl i old new

/-- The status bits after the latch has seen a port change from `old` to `new` (R162). -/
def latchStatus (edgeBoth : Word32) (lvl : Slot) (draw : Pin → Bool) (old new : Byte) (sta : Vector Tri 8) :
    Vector Tri 8 :=
  Vector.ofFn fun i : Pin =>
    if latchEvent edgeBoth lvl draw i (old.getLsbD i) (new.getLsbD i) then .hi else sta[i]

/-- What the bank puts on a pin (R36). -/
inductive Drive where
  | driven (level : Bool)
  | highZ
  | sfio
  | unknown
deriving DecidableEq, Repr

/-- `drive(p, i)` (R36). -/
def Bank.drive (bk : Bank) (p : Port) (i : Pin) : Drive :=
  match bk.csr.cnf[p], bk.csr.oe[p] with
  | .word cnf, .word oe =>
    if cnf.getLsbD i = false then .sfio
    else if oe.getLsbD i = false then .highZ
    else
      match bk.csr.out[p] with
      | .unknown => .unknown
      | .word out => .driven (out.getLsbD i)
  | _, _ => .unknown

/-- Bit `i` of a slot (R37). -/
def slotBit (v : Slot) (i : Pin) : Tri :=
  match v with
  | .unknown => .unknown
  | .word w => if w.getLsbD i then .hi else .lo

/-- AND with `UNKNOWN` operands: definitely 0 when one operand is (R37). -/
def triAnd : Tri → Tri → Tri
  | .lo, _ => .lo
  | _, .lo => .lo
  | .hi, .hi => .hi
  | _, _ => .unknown

/-- OR with `UNKNOWN` operands: definitely 1 when one operand is (R37). -/
def triOr : Tri → Tri → Tri
  | .hi, _ => .hi
  | _, .hi => .hi
  | .lo, .lo => .lo
  | _, _ => .unknown

/-- The term of pin `i` of port `p` in `irq` (R37, R227). -/
def Bank.irqTerm (bk : Bank) (p : Port) (i : Pin) : Tri :=
  triAnd (bk.sta[p])[i] (slotBit bk.csr.intEnb[p] i)

/-- What port `p` contributes to `irq` (R37). -/
def Bank.irqPort (bk : Bank) (p : Port) : Tri :=
  (List.finRange 8).foldl (fun acc i => triOr acc (bk.irqTerm p i)) .lo

/-- `irq` (R37): the OR over the ports. No step delivers it (R165). -/
def Bank.irq (bk : Bank) : Tri :=
  (List.finRange 4).foldl (fun acc p => triOr acc (bk.irqPort p)) .lo

end Sys2Proof.Machine
end

