-- ==== Sys2Proof/Machine/Ops.lean ====
section
/-! DEFINITION. The operations the meanings share: choosing the next turn, putting an agent on the bus, completing a
transaction, taking a fault or a refusal, and the accesses to a slot (10_state.md R39, R43, R44; 40_csr_access.md R110,
R111; 60_exceptions.md R220, R221). -/

namespace Sys2Proof.Machine

/-- The next turn and the state without it: the head of `sched`, or the free value when `sched` is empty (R7, R72). -/
def State.nextEvent (s : State) : Event × State :=
  match s.sched with
  | [] => (Config.freeEvent s.events, { s with events := s.events + 1 })
  | e :: rest => (e, { s with sched := rest })

/-- Agent `m` has the bus. -/
def State.grant (s : State) (m : Master) : State :=
  { s with bus := { s.bus with master := m } }

/-- The request on the bus is for bank `b`. -/
def State.select (s : State) (b : Nat) : State :=
  { s with bus := { s.bus with bank := b } }

/-- Record `f` in a fault register: sticky, so the first record stays (R44, R221). -/
def recordFault (old : Option FaultRec) (f : FaultRec) : Option FaultRec :=
  old.or (some f)

/-- TAKING A FAULT (R221): the agent on the bus records it and nothing else changes; D30 also goes to `FAULTED` in the same
step (R197). Nothing is saved and control goes nowhere (R226). -/
def State.raise (s : State) (f : FaultRec) : State :=
  match s.bus.master with
  | .sw => { s with sw := { s.sw with fault := recordFault s.sw.fault f } }
  | .echo =>
    { s with echo := { s.echo with fault := recordFault s.echo.fault f, state := .faulted, phase := .none } }
  | .ext => { s with extFault := recordFault s.extFault f }

/-- A refusal (codes 8 to 10): recorded as a fault is, and the whole run is marked refused (R221). -/
def State.refuse (s : State) (f : FaultRec) : State :=
  { s.raise f with refused := true }

/-- A write has completed: `SW` goes on to its next item (R39). -/
def State.retire (s : State) : State :=
  match s.bus.master with
  | .sw => { s with sw := { s.sw with k := s.sw.k + 1 } }
  | .echo | .ext => s

/-- A read has completed with data word `d`, having used `n` free values: the word is on the read-data lines, and `SW`
appends it to its read log and goes on to its next item (R39, R43, R111). -/
def State.deliver (s : State) (d : Word32) (n : Nat) : State :=
  match s.bus.master with
  | .sw =>
    { s with
      bus := { s.bus with rdata := d }, draws := s.draws + n,
      sw := { s.sw with rdlog := s.sw.rdlog ++ [d], k := s.sw.k + 1 } }
  | .echo | .ext => { s with bus := { s.bus with rdata := d }, draws := s.draws + n }

/-- Run a transaction on the selected bank. A bank that does not exist has no window to hold the address (R91). -/
def State.access (s : State) (r : Reg) (p : Port) (f : Bank → State) : Host.Outcome State Fault Refusal :=
  match s.banks[s.bus.bank]? with
  | none => .next (s.raise (.range (s.cfg.slotAddr s.bus.bank r p)))
  | some bk => .next (f bk)

/-- Replace the selected bank. -/
def State.setBank (s : State) (bk : Bank) : State :=
  { s with banks := s.banks.set s.bus.bank bk }

/-- `data <- read_storage(r, p)` (R110). -/
def State.readStorage (s : State) (r : StorageReg) (p : Port) : Host.Outcome State Fault Refusal :=
  s.access r.reg p fun bk =>
    s.deliver (readValue s.cfg r (bk.csr.get r p) (Config.freeWord s.draws)) 1

/-- `csr[r][p] <- d` (R111). -/
def State.writeStorage (s : State) (r : StorageReg) (p : Port) (d : Word32) : Host.Outcome State Fault Refusal :=
  s.access r.reg p fun bk => (s.setBank { bk with csr := bk.csr.set r p (.word d) }).retire

/-- Clear the status bits of port `p` where `d` has a 1, by a write to `INT_STA` or `INT_CLR` (R121, R127). -/
def State.writeStatus (s : State) (r : Reg) (p : Port) (d : Word32) : Host.Outcome State Fault Refusal :=
  s.access r p fun bk => (s.setBank { bk with sta := bk.sta.set p (clearStatus bk.sta[p] d) }).retire

end Sys2Proof.Machine
end

