-- ==== Sys2Proof/Machine/Input.lean ====
section
/-! DEFINITION. The input register IN (40_csr_access.md R118, R119). -/

namespace Sys2Proof.Machine

/-- `RD IN[p]`: the pad levels at this step, with drawn bits above them (R118). -/
def execRdIn (p : Port) (s : State) : Host.Outcome State Fault Refusal :=
  s.access .inp p fun bk => s.deliver (laneWord bk.ext[p] (Config.freeWord s.draws)) 1

/-- `WR IN[p], D`: the issuing agent takes `F_RO_WRITE`, always, recording the descriptor (R119, R220). -/
def execWrIn (p : Port) (d : Word32) (s : State) : Host.Outcome State Fault Refusal :=
  s.access .inp p fun _ => s.raise (.roWrite (encodeTd (.wrIn p d)))

end Sys2Proof.Machine
end

