-- ==== Sys2Proof/Machine/Status.lean ====
section
/-! DEFINITION. The interrupt status and clear registers INT_STA and INT_CLR (40_csr_access.md R120, R121, R126, R127). -/

namespace Sys2Proof.Machine

/-- `RD INT_STA[p]`: the latched bits, a draw for each `UNKNOWN` one and drawn bits above them; nothing is cleared (R120). -/
def execRdIntSta (p : Port) (s : State) : Host.Outcome State Fault Refusal :=
  s.access .intSta p fun bk =>
    s.deliver (laneWord (statusByte bk.sta[p] fun i => Config.freeBit (s.draws + i)) (Config.freeWord s.draws)) 8

/-- `WR INT_STA[p], D`: write-1-to-clear (R121). -/
def execWrIntSta (p : Port) (d : Word32) (s : State) : Host.Outcome State Fault Refusal :=
  s.writeStatus .intSta p d

/-- `RD INT_CLR[p]`: a draw; nothing is cleared (R126). -/
def execRdIntClr (p : Port) (s : State) : Host.Outcome State Fault Refusal :=
  s.access .intClr p fun _ => s.deliver (Config.freeWord s.draws) 1

/-- `WR INT_CLR[p], D`: clear the status bits written as 1 (R127). -/
def execWrIntClr (p : Port) (d : Word32) (s : State) : Host.Outcome State Fault Refusal :=
  s.writeStatus .intClr p d

end Sys2Proof.Machine
end

