-- ==== Sys2Proof/Machine/Storage.lean ====
section
/-! DEFINITION. The reads and writes of the storage registers CNF, OE, OUT, INT_ENB and INT_LVL
(40_csr_access.md R110 to R117, R122 to R125). -/

namespace Sys2Proof.Machine

/-- `RD CNF[p]` (R112). -/
def execRdCnf (p : Port) (s : State) : Host.Outcome State Fault Refusal :=
  s.readStorage .cnf p

/-- `WR CNF[p], D` (R113). -/
def execWrCnf (p : Port) (d : Word32) (s : State) : Host.Outcome State Fault Refusal :=
  s.writeStorage .cnf p d

/-- `RD OE[p]` (R114). -/
def execRdOe (p : Port) (s : State) : Host.Outcome State Fault Refusal :=
  s.readStorage .oe p

/-- `WR OE[p], D` (R115). -/
def execWrOe (p : Port) (d : Word32) (s : State) : Host.Outcome State Fault Refusal :=
  s.writeStorage .oe p d

/-- `RD OUT[p]`: the stored word, never the pad level (R116). -/
def execRdOut (p : Port) (s : State) : Host.Outcome State Fault Refusal :=
  s.readStorage .out p

/-- `WR OUT[p], D` (R117). -/
def execWrOut (p : Port) (d : Word32) (s : State) : Host.Outcome State Fault Refusal :=
  s.writeStorage .out p d

/-- `RD INT_ENB[p]` (R122). -/
def execRdIntEnb (p : Port) (s : State) : Host.Outcome State Fault Refusal :=
  s.readStorage .intEnb p

/-- `WR INT_ENB[p], D` (R123). -/
def execWrIntEnb (p : Port) (d : Word32) (s : State) : Host.Outcome State Fault Refusal :=
  s.writeStorage .intEnb p d

/-- `RD INT_LVL[p]` (R124). -/
def execRdIntLvl (p : Port) (s : State) : Host.Outcome State Fault Refusal :=
  s.readStorage .intLvl p

/-- `WR INT_LVL[p], D` (R125). -/
def execWrIntLvl (p : Port) (d : Word32) (s : State) : Host.Outcome State Fault Refusal :=
  s.writeStorage .intLvl p d

end Sys2Proof.Machine
end

