-- ==== Sys2Proof/Machine/Dispatch.lean ====
section
/-! DEFINITION. The meaning of each transaction of the opcode table (30_encoding.md R94). -/

namespace Sys2Proof.Machine

def exec (i : Instr) (s : State) : Host.Outcome State Fault Refusal :=
  match i with
  | .rdCnf p => Sys2Proof.Machine.execRdCnf p s
  | .rdOe p => Sys2Proof.Machine.execRdOe p s
  | .rdOut p => Sys2Proof.Machine.execRdOut p s
  | .rdIn p => Sys2Proof.Machine.execRdIn p s
  | .rdIntSta p => Sys2Proof.Machine.execRdIntSta p s
  | .rdIntEnb p => Sys2Proof.Machine.execRdIntEnb p s
  | .rdIntLvl p => Sys2Proof.Machine.execRdIntLvl p s
  | .rdIntClr p => Sys2Proof.Machine.execRdIntClr p s
  | .wrCnf p d => Sys2Proof.Machine.execWrCnf p d s
  | .wrOe p d => Sys2Proof.Machine.execWrOe p d s
  | .wrOut p d => Sys2Proof.Machine.execWrOut p d s
  | .wrIn p d => Sys2Proof.Machine.execWrIn p d s
  | .wrIntSta p d => Sys2Proof.Machine.execWrIntSta p d s
  | .wrIntEnb p d => Sys2Proof.Machine.execWrIntEnb p d s
  | .wrIntLvl p d => Sys2Proof.Machine.execWrIntLvl p d s
  | .wrIntClr p d => Sys2Proof.Machine.execWrIntClr p d s

end Sys2Proof.Machine
end

