-- ==== Sys2Proof/Machine/Bus.lean ====
section
/-! DEFINITION. An agent's bus request: decoding, then the transaction (30_encoding.md R91; 20_memory.md R66, R70, R72). -/

namespace Sys2Proof.Machine

/-- Agent `m` issues request `r`: the fault decoding finds, or the decoded transaction on the bank it selects, in one
step (R70, R91). -/
def issue (m : Master) (r : Request) (s : State) : Host.Outcome State Fault Refusal :=
  match decodeRequest s.cfg s.banks.length r with
  | .fault f => .next ((s.grant m).raise f)
  | .ok b i => exec i ((s.grant m).select b)

/-- A fetch by `SW` (R75): refused with `F_FETCH` in a bank's window, and outside every window a range fault. -/
def fetchAt (a : Nat) (s : State) : Host.Outcome State Fault Refusal :=
  match s.cfg.findBank s.banks.length a with
  | some _ => .next ((s.grant .sw).refuse (.fetch a))
  | none => .next ((s.grant .sw).raise (.range a))

end Sys2Proof.Machine
end

