-- ==== Sys2Proof/Machine/Echo.lean ====
section
/-! DEFINITION. D30, the echo pulse-width engine: its configuration check, `ECHO.START` and one definition per step rule
(43_echo_timer.md R180 to R197). A step that is held leaves the state as it is (00_scope.md R12). -/

namespace Sys2Proof

/-- D30's configuration is well-formed (R180). -/
def Config.echoWellFormed (cfg : Config) : Bool :=
  !(cfg.trigBank == cfg.echoBank && cfg.trigPort == cfg.echoPort) && decide (cfg.echoBit < 8) &&
    cfg.trigMask != 0 && decide (1 ≤ cfg.tTrigUs) && decide (1 ≤ cfg.usPerCm)

end Sys2Proof

namespace Sys2Proof.Machine

/-- `ECHO.START` (R182): refused when D30 has left `OFF`, and when its configuration is ill-formed (R180). -/
def echoStart (s : State) : Host.Outcome State Fault Refusal :=
  if s.echo.state ≠ .off then .next ((s.grant .sw).refuse .startBusy)
  else if s.cfg.echoWellFormed = false then .refused .illFormedEcho
  else
    .next
      { s with
        echo :=
          { s.echo with
            state := .idle, phase := .assert, cyclesDone := 0, reports := [], prevEcho := false, tRise := none,
            tFall := none }
        sw := { s.sw with k := s.sw.k + 1 } }

/-- Go on with `f` after D30's transaction, unless the transaction faulted (R197). -/
def afterTransaction (o : Host.Outcome State Fault Refusal) (f : State → State) :
    Host.Outcome State Fault Refusal :=
  match o with
  | .next s => if s.echo.fault.isSome then .next s else .next (f s)
  | .fault r => .fault r
  | .refused r => .refused r

/-- D30's write of the trigger port (R183, R184). -/
def State.writeTrigger (s : State) (high : Bool) : Host.Outcome State Fault Refusal :=
  issue .echo (encode s.cfg.trigBank (.wrOut s.cfg.trigPort (levelWord s.cfg.trigMask high))) s

/-- D30's read of the echo port (R185, R187). -/
def State.readEcho (s : State) : Host.Outcome State Fault Refusal :=
  issue .echo (encode s.cfg.echoBank (.rdIn s.cfg.echoPort)) s

/-- `IDLE / ASSERT` (R183). -/
def echoAssert (s : State) : Host.Outcome State Fault Refusal :=
  afterTransaction (s.writeTrigger true) fun s =>
    { s with echo := { s.echo with tRise := none, tFall := none, tMark := s.clk, phase := .hold } }

/-- `IDLE / HOLD` (R184). -/
def echoHold (s : State) : Host.Outcome State Fault Refusal :=
  if s.clk - s.echo.tMark < s.cfg.tTrigUs then .next s
  else
    afterTransaction (s.writeTrigger false) fun s =>
      { s with echo := { s.echo with prevEcho := false, tWait := s.clk, state := .waitRise, phase := .sample } }

/-- Whether the timeout of a wait state has expired (R191). -/
def State.echoExpired (s : State) : Bool :=
  s.cfg.echoTimeoutUs.any fun t => decide (t < s.clk - s.echo.tWait)

/-- The echo timeout (R191, R225). -/
def echoTimeout (s : State) : Host.Outcome State Fault Refusal :=
  .next
    { s with
      echo :=
        { s.echo with
          fault := recordFault s.echo.fault (.echoTimeout s.echo.state), state := .faulted, phase := .none } }

/-- A sample: an edge to level `edge` from the other level ends the wait, and the level is kept (R185, R187). -/
def echoSample (edge : Bool) (s : State) : Host.Outcome State Fault Refusal :=
  afterTransaction s.readEcho fun s =>
    { s with
      echo :=
        { s.echo with
          phase :=
            if s.echo.prevEcho = !edge ∧ pinLevel s.bus.rdata s.cfg.echoBit = edge then .stamp else s.echo.phase
          prevEcho := pinLevel s.bus.rdata s.cfg.echoBit } }

/-- `WAIT_RISE / SAMPLE` (R185, R191). -/
def echoSampleRise (s : State) : Host.Outcome State Fault Refusal :=
  if s.echoExpired then echoTimeout s else echoSample true s

/-- `WAIT_RISE / STAMP` (R186). -/
def echoStampRise (s : State) : Host.Outcome State Fault Refusal :=
  .next { s with echo := { s.echo with tRise := some s.clk, tWait := s.clk, state := .waitFall, phase := .sample } }

/-- `WAIT_FALL / SAMPLE` (R187, R191). -/
def echoSampleFall (s : State) : Host.Outcome State Fault Refusal :=
  if s.echoExpired then echoTimeout s else echoSample false s

/-- `WAIT_FALL / STAMP` (R188). -/
def echoStampFall (s : State) : Host.Outcome State Fault Refusal :=
  .next { s with echo := { s.echo with tFall := some s.clk, state := .complete, phase := .report } }

/-- `distance_cm`, the exact rational (R193). -/
def distanceOf (elapsed usPerCm : Nat) : Rat :=
  (elapsed : Rat) / (usPerCm : Rat)

/-- `COMPLETE / REPORT` (R189, R196). The faults are of states no run reaches (assumption log 11). -/
def echoReport (s : State) : Host.Outcome State Fault Refusal :=
  match s.echo.tRise, s.echo.tFall with
  | some r, some f =>
    if f < r then .fault .negativeElapsed
    else if s.cfg.usPerCm = 0 then .fault .zeroDivisor
    else
      .next
        { s with
          echo :=
            { s.echo with
              elapsedUs := some (f - r)
              distanceCm := some (distanceOf (f - r) s.cfg.usPerCm)
              reports := s.echo.reports ++
                [{ cycle := s.echo.cyclesDone, tRise := r, tFall := f, elapsedUs := f - r,
                   distanceCm := distanceOf (f - r) s.cfg.usPerCm }]
              cyclesDone := s.echo.cyclesDone + 1
              tMark := s.clk
              phase := .gap } }
  | _, _ => .fault .unsetTimestamp

/-- Whether the fixed number of cycles is done (R190). -/
def State.cyclesOver (s : State) : Bool :=
  s.cfg.nCycles.any fun n => decide (n ≤ s.echo.cyclesDone)

/-- `COMPLETE / GAP` (R190). -/
def echoGap (s : State) : Host.Outcome State Fault Refusal :=
  if s.clk - s.echo.tMark < s.cfg.tGapUs then .next s
  else if s.cyclesOver then .next { s with echo := { s.echo with state := .halted, phase := .none } }
  else .next { s with echo := { s.echo with state := .idle, phase := .assert } }

/-- D30's turn: the one step rule of its control state, or none (R181). A recorded fault has stopped it (R221). -/
def stepEcho (s : State) : Host.Outcome State Fault Refusal :=
  if s.echo.fault.isSome then .next s
  else
    match s.echo.state, s.echo.phase with
    | .idle, .assert => echoAssert s
    | .idle, .hold => echoHold s
    | .waitRise, .sample => echoSampleRise s
    | .waitRise, .stamp => echoStampRise s
    | .waitFall, .sample => echoSampleFall s
    | .waitFall, .stamp => echoStampFall s
    | .complete, .report => echoReport s
    | .complete, .gap => echoGap s
    | _, _ => .next s

end Sys2Proof.Machine
end

