-- ==== Sys2Proof/Machine/Pads.lean ====
section
/-! DEFINITION. The environment's step with the edge latch, and the clock's step (42_pad_events.md R160 to R163). -/

namespace Sys2Proof.Machine

/-- `ENV_step(p, v)` on one bank, the draws given (R160, R162). -/
def Bank.envStep (bk : Bank) (edgeBoth : Word32) (draw : Pin → Bool) (p : Port) (v : Byte) : Bank :=
  { bk with
    ext := bk.ext.set p v
    sta := bk.sta.set p (latchStatus edgeBoth bk.csr.intLvl[p] draw bk.ext[p] v bk.sta[p])
    latPrev := bk.latPrev.set p v }

/-- `ENV` sets the pad levels of port `p` of bank `b` (R160). A bank that does not exist has no pads: nothing happens. -/
def stepEnv (b : Nat) (p : Port) (v : Byte) (s : State) : Host.Outcome State Fault Refusal :=
  match s.banks[b]? with
  | none => .next s
  | some bk =>
    .next
      { s with
        banks := s.banks.set b (bk.envStep s.cfg.edgeBoth (fun i => Config.freeBit (s.draws + i)) p v)
        draws := s.draws + 8 }

/-- Whether an advance by `d` would pass the clock's last value (R161). -/
def State.clkWraps (s : State) (d : Nat) : Bool :=
  s.cfg.clkWidth.any fun w => decide (2 ^ w ≤ s.clk + d)

/-- `CLK` advances the clock by `d >= 1`, or the refusal `F_CLK_WRAP` is recorded and the clock stops (R161, R220, R221). -/
def stepClk (d : Nat) (s : State) : Host.Outcome State Fault Refusal :=
  if s.clkFault.isSome || d == 0 then .next s
  else if s.clkWraps d then .next { s with clkFault := some .clkWrap, refused := true }
  else .next { s with clk := s.clk + d }

end Sys2Proof.Machine
end

