-- ==== Sys2Proof/Machine/Agents.lean ====
section
/-! DEFINITION. The turns of the agents `SW` and `EXT`, and the turn an event stands for
(00_scope.md R7; 10_state.md R43, R44; 42_pad_events.md R166). -/

namespace Sys2Proof.Machine

/-- `SW` performs `prog[k]`; it has no step past the end, nor once it has faulted (R43, R44). -/
def stepSw (s : State) : Host.Outcome State Fault Refusal :=
  if s.sw.fault.isSome then .next s
  else
    match s.sw.prog[s.sw.k]? with
    | none => .next s
    | some (.bus r) => issue .sw r s
    | some (.fetch a) => fetchAt a s
    | some .echoStart => echoStart s

/-- `EXT` issues any request, only with `EXTERNAL_WRITERS` and until it faults (R44, R166). -/
def stepExt (r : Request) (s : State) : Host.Outcome State Fault Refusal :=
  if s.cfg.externalWriters && !s.extFault.isSome then issue .ext r s else .next s

/-- The turn an event stands for (R7). -/
def runEvent (e : Event) (s : State) : Host.Outcome State Fault Refusal :=
  match e with
  | .sw => stepSw s
  | .echo => stepEcho s
  | .env b p v => stepEnv b p v s
  | .clk d => stepClk d s
  | .ext r => stepExt r s

/-- Put `x` at index `k` of a list, with copies of `x` before it where the list is shorter. -/
def putAt {α : Type} (x : α) : List α → Nat → List α
  | [], 0 => [x]
  | [], k + 1 => x :: putAt x [] k
  | _ :: l, 0 => x :: l
  | y :: l, k + 1 => y :: putAt x l k

/-- Place the transaction of bits `w` as the item `SW` performs next, on bank 0, and give `SW` the next turn. Bits 15:10 of `w`,
which a descriptor of 10 bits does not have, are dropped, where `decodeBytes` rejects them (DESIGN CHOICE, assumption log 7). -/
def placeWord (s : State) (nbits w : Nat) : State :=
  { s with
    sw :=
      { s.sw with
        prog := putAt (.bus (.slot 0 (BitVec.ofNat 10 (w % 2 ^ nbits)) (BitVec.ofNat 32 (w % 2 ^ nbits / 2 ^ 16))))
          s.sw.prog s.sw.k
        fault := none }
    sched := .sw :: s.sched }

end Sys2Proof.Machine
end

