-- ==== Sys2Proof/Machine/Assembler.lean ====
section
/-! DEFINITION. The assembler: text to lines, the range checks, the pseudo-instructions, and the launch of a program on a
mapped platform (30_encoding.md R97 to R99; 41_pin_sequences.md R140 to R145; 60_exceptions.md R223, R224). -/

namespace Sys2Proof.Machine

/-! Text (R97, R98). Case, blank lines, white space and the forms of the numbers are the model's choices where those rules are
silent (DESIGN CHOICE, assumption log 13). -/

/-- A token of a line: a word, or one of the three separators. -/
inductive Token where
  | word (cs : List Char)
  | openBracket
  | closeBracket
  | comma
deriving DecidableEq, Repr

/-- End the word whose reversed characters are `acc`. -/
def endWord (acc : List Char) (rest : List Token) : List Token :=
  if acc.isEmpty then rest else .word acc.reverse :: rest

/-- The tokens of a line; a comment runs from `--` to the end (R97). Spaces and tabs end a word and are optional beside a bracket
or a comma (DESIGN CHOICE, assumption log 13). -/
def tokens : List Char → List Char → List Token
  | [], acc => endWord acc []
  | '-' :: '-' :: _, acc => endWord acc []
  | c :: cs, acc =>
    if c = ' ' ∨ c = '\t' then endWord acc (tokens cs [])
    else if c = '[' then endWord acc (.openBracket :: tokens cs [])
    else if c = ']' then endWord acc (.closeBracket :: tokens cs [])
    else if c = ',' then endWord acc (.comma :: tokens cs [])
    else tokens cs (c :: acc)

/-- The value of a digit below `base`. -/
def digitValue (base : Nat) (c : Char) : Option Nat :=
  let n := c.toNat
  let v :=
    if 48 ≤ n ∧ n ≤ 57 then n - 48
    else if 97 ≤ n ∧ n ≤ 102 then n - 87
    else if 65 ≤ n ∧ n ≤ 70 then n - 55
    else 16
  if v < base then some v else none

/-- The value of the digits after those that gave `acc`. -/
def digitsValue (base : Nat) : List Char → Nat → Option Nat
  | [], acc => some acc
  | c :: cs, acc =>
    match digitValue base c with
    | none => none
    | some v => digitsValue base cs (base * acc + v)

/-- A decimal number. -/
def decimal (cs : List Char) : Option Nat :=
  if cs.isEmpty then none else digitsValue 10 cs 0

/-- A hexadecimal (`0x`) or decimal number (R97). -/
def number (cs : List Char) : Option Nat :=
  match cs with
  | '0' :: 'x' :: c :: cs => digitsValue 16 (c :: cs) 0
  | _ => decimal cs

/-- The parts of a word around its first dot, where it has one. -/
def splitDot : List Char → List Char × Option (List Char)
  | [] => ([], none)
  | c :: cs =>
    if c = '.' then ([], some cs)
    else (c :: (splitDot cs).1, (splitDot cs).2)

/-- The optional bank index and the register name of `[b.]REG`, bank 0 by default (R97). The index is decimal only,
and may be written on a platform of one bank too (DESIGN CHOICE, assumption log 13). -/
def bankAndReg (cs : List Char) : Option (Nat × List Char) :=
  match splitDot cs with
  | (r, none) => some (0, r)
  | (b, some r) => (decimal b).map fun b => (b, r)

/-- The line a token list is (R97, R98), none where it has none of the forms. A line of no tokens is blank; names are
case-sensitive; the immediate and the mask are hexadecimal or decimal, every other number is decimal only (DESIGN CHOICE,
assumption log 13, where R97 does not say it). -/
def lineOf : List Token → Option Line
  | [] => some .blank
  | [.word op] => if op = "ECHO.START".toList then some .echoStart else none
  | [.word op, .word r, .openBracket, .word p, .closeBracket] =>
    if op = "RD".toList then
      match bankAndReg r, decimal p with
      | some (b, r), some p => some (.rd b r p)
      | _, _ => none
    else none
  | [.word op, .word r, .openBracket, .word p, .closeBracket, .comma, .word d] =>
    if op = "WR".toList then
      match bankAndReg r, decimal p, number d with
      | some (b, r), some p, some d => some (.wr b r p d)
      | _, _, _ => none
    else none
  | [.word op, .word p] =>
    if op = "PIN.NOINT".toList then (decimal p).map (.pinNoint 0 ·)
    else if op = "PIN.EDGECFG".toList then (decimal p).map (.pinEdgecfg 0 ·)
    else if op = "PIN.GET".toList then (decimal p).map (.pinGet 0 · none)
    else none
  | [.word op, .word p, .comma, .word x] =>
    if op = "PIN.DIR".toList then
      if x = "OUT".toList then (decimal p).map (.pinDir 0 · true)
      else if x = "IN".toList then (decimal p).map (.pinDir 0 · false)
      else none
    else if op = "PIN.SET".toList then
      match decimal p, decimal x with
      | some p, some x => some (.pinSet 0 p x none)
      | _, _ => none
    else if op = "PIN.GET".toList then
      match decimal p, decimal x with
      | some p, some x => some (.pinGet 0 p (some x))
      | _, _ => none
    else none
  | [.word op, .word p, .comma, .word x, .comma, .word m] =>
    if op = "PIN.SET".toList then
      match decimal p, decimal x, number m with
      | some p, some x, some m => some (.pinSet 0 p x (some m))
      | _, _, _ => none
    else none
  | _ => none

/-- One line of text. -/
def parseLine (cs : List Char) : Option Line :=
  lineOf (tokens cs [])

/-! Lines to items (R98, R141 to R145). -/

/-- The item of instruction `i` on bank `b`. -/
def itemOf (b : Nat) (i : Instr) : SwItem :=
  .bus (encode b i)

/-- A port number as a port. The checks of `Line.wellFormed` come first, so that no number is changed. -/
def portOf (p : Nat) : Port :=
  Fin.ofNat 4 p

/-- The items of a well-formed line; `none` where the register name is not one of the eight. -/
def itemsOf (cfg : Config) : Line → Option (List SwItem)
  | .blank => some []
  | .rd b r p => (Reg.ofName r).map fun r => [itemOf b (opcode false r (portOf p) 0)]
  | .wr b r p d => (Reg.ofName r).map fun r => [itemOf b (opcode true r (portOf p) (BitVec.ofNat 32 d))]
  | .echoStart => some [.echoStart]
  | .pinDir b p out =>
    some
      [itemOf b (.wrCnf (portOf p) cfg.cnfGpioAll),
        itemOf b (.wrOe (portOf p) (if out then cfg.oeOutput else cfg.oeInput))]
  | .pinNoint b p => some [itemOf b (.wrIntEnb (portOf p) cfg.intEnbNone)]
  | .pinEdgecfg b p =>
    some
      [itemOf b (.wrIntSta (portOf p) cfg.intStaAck), itemOf b (.wrIntLvl (portOf p) cfg.edgeBoth),
        itemOf b (.wrIntClr (portOf p) cfg.intClrAll)]
  | .pinSet b p v m =>
    some [itemOf b (.wrOut (portOf p) (levelWord ((m.map (BitVec.ofNat 8)).getD cfg.pinMask) (v == 1)))]
  | .pinGet b p _ => some [itemOf b (.rdIn (portOf p))]

/-- The bit `PIN.GET` takes its level from: the one it names, or `ECHO_BIT` (R145), whose range is not checked here (DESIGN
CHOICE, assumption log 15). -/
def getBit (cfg : Config) (k : Option Nat) : Nat :=
  k.getD cfg.echoBit

/-- What the assembler answers: the items, or the number of the first line it refuses (R99). -/
inductive Assembled where
  | items (l : List SwItem)
  | refusedLine (n : Nat)
deriving DecidableEq, Repr

/-- Assemble a program on a platform of `n` banks, its first line being number `k`. One refused line refuses the whole
program (R99, R223). -/
def assembleFrom (cfg : Config) (n : Nat) : Nat → List Line → Assembled
  | _, [] => .items []
  | k, l :: ls =>
    if l.wellFormed n then
      match itemsOf cfg l, assembleFrom cfg n (k + 1) ls with
      | some l, .items ls => .items (l ++ ls)
      | some _, .refusedLine j => .refusedLine j
      | none, _ => .refusedLine k
    else .refusedLine k

/-- Assemble a program (R99). -/
def assemble (cfg : Config) (n : Nat) (ls : List Line) : Assembled :=
  assembleFrom cfg n 0 ls

/-- The lines of a text, or the number of the first line that has none of the forms. -/
def parseFrom : Nat → List (List Char) → Except Nat (List Line)
  | _, [] => .ok []
  | k, cs :: rest =>
    match parseLine cs, parseFrom (k + 1) rest with
    | some l, .ok ls => .ok (l :: ls)
    | some _, .error j => .error j
    | none, _ => .error k

/-- Launch a program of lines on `SW`: with no mapping `E_MAPPING` is recorded, with a refused line `E_CONFIG`, and then no
transaction is issued; else `SW` starts at the first item (R223, R224). Neither code sets `refused`, for R221 marks the run only
for codes 8 to 10 (DESIGN CHOICE beside I33 and I34, assumption log 4). The model's way to load a program (assumption log 9). -/
def State.launch (s : State) (mapped : Bool) (ls : List Line) : State :=
  if mapped = false then
    { s with sw := { prog := [], k := 0, rdlog := [], fault := recordFault s.sw.fault .mapping } }
  else
    match assemble s.cfg s.banks.length ls with
    | .items l => { s with sw := { prog := l, k := 0, rdlog := [], fault := s.sw.fault } }
    | .refusedLine n =>
      { s with sw := { prog := [], k := 0, rdlog := [], fault := recordFault s.sw.fault (.config n) } }

/-- Launch a program of text; a line of none of the forms is refused as an `E_CONFIG` line is. The whole text is parsed first, so
that the first line of none of the forms is the one recorded, even where an earlier line fails a check of R99 (DESIGN CHOICE,
assumption log 14). -/
def State.launchText (s : State) (mapped : Bool) (text : List (List Char)) : State :=
  match parseFrom 0 text with
  | .ok ls => s.launch mapped ls
  | .error n =>
    { s with
      sw := { prog := [], k := 0, rdlog := [],
              fault := recordFault s.sw.fault (if mapped = false then .mapping else .config n) } }

end Sys2Proof.Machine
end

