-- ==== Sys2Proof/Machine/Step.lean ====
section
/-! DEFINITION. One step of the machine: the next turn, taken by its agent (00_scope.md R7; 20_memory.md R72). -/

namespace Sys2Proof.Machine

/-- One step. -/
def step (s : State) : Host.Outcome State Fault Refusal :=
  runEvent s.nextEvent.1 s.nextEvent.2

/-- `s` with the transaction of bits `w` placed so that the very next step performs it (assumption log 9). -/
def State.withFetchWord (s : State) (nbits w : Nat) : State :=
  placeWord s nbits w

end Sys2Proof.Machine
end

