-- ==== Sys2Proof/Safety.lean ====
section
/-! DEFINITION. What counts as a good state or run, in the terms the statements use: D30's invariant (43_echo_timer.md R181,
R195, R198), the edge latch's (42_pad_events.md R162), the duties of software (R147, R180), the end of a run (R197), fair
schedules (R161) and what a storage read may return (40_csr_access.md R110). -/

namespace Sys2Proof.Machine

/-- The pairs (state, phase) of R181. -/
def Echo.legal (e : Echo) : Bool :=
  match e.state, e.phase with
  | .off, .none => true
  | .idle, .assert => true
  | .idle, .hold => true
  | .waitRise, .sample => true
  | .waitRise, .stamp => true
  | .waitFall, .sample => true
  | .waitFall, .stamp => true
  | .complete, .report => true
  | .complete, .gap => true
  | .halted, .none => true
  | .faulted, .none => true
  | _, _ => false

/-- A report record agrees with its two timestamps (R189, R193, R198). -/
def Report.consistent (usPerCm : Nat) (r : Report) : Prop :=
  r.tRise ≤ r.tFall ∧ r.elapsedUs = r.tFall - r.tRise ∧ r.distanceCm = (r.elapsedUs : Rat) / (usPerCm : Rat)

/-- The invariant of D30: what R181, R195 and R198 say of every state a run reaches. -/
structure EchoInv (s : State) : Prop where
  /-- The control state is one of R181's rows. -/
  legal : s.echo.legal = true
  /-- D30 is in `FAULTED` exactly when its fault register is set (R197, R221). -/
  faulted_iff : s.echo.state = .faulted ↔ s.echo.fault.isSome = true
  /-- D30 only leaves `OFF` with a well-formed configuration (R180, R182). -/
  configured : s.echo.state ≠ .off → s.cfg.echoWellFormed = true
  /-- D30 has reported nothing while it is `OFF`: it leaves `OFF` once and never returns to it (R182, R250). -/
  unstarted : s.echo.state = .off → s.echo.reports = []
  /-- `reports` has exactly `cycles_done` records (R198). -/
  counted : s.echo.reports.length = s.echo.cyclesDone
  /-- The records are in cycle order (R196). -/
  numbered : ∀ (j : Nat) (r : Report), s.echo.reports[j]? = some r → r.cycle = j
  /-- Every record has `t_rise <= t_fall`, and its time and distance are theirs (R189, R198). -/
  consistent : ∀ r ∈ s.echo.reports, r.consistent s.cfg.usPerCm
  /-- The last results are those of the last completed cycle (R195). -/
  lastElapsed : s.echo.elapsedUs = s.echo.reports.getLast?.map Report.elapsedUs
  lastDistance : s.echo.distanceCm = s.echo.reports.getLast?.map Report.distanceCm
  /-- No timestamp is set before the rising edge (R183, R195). -/
  unset : s.echo.phase = .hold ∨ s.echo.state = .waitRise → s.echo.tRise = none ∧ s.echo.tFall = none
  /-- In `WAIT_FALL` the rise has been stamped and the fall has not (R186). -/
  risen : s.echo.state = .waitFall → s.echo.tFall = none ∧ ∃ r, s.echo.tRise = some r ∧ r ≤ s.clk
  /-- At `REPORT` both stamps are there, in order (R188). -/
  fallen : s.echo.phase = .report → ∃ r f, s.echo.tRise = some r ∧ s.echo.tFall = some f ∧ r ≤ f
  /-- The level seen last, by control state: LOW until the rising sample, HIGH until the falling one (R185, R187). -/
  level : (s.echo.state = .waitRise ∧ s.echo.phase = .sample → s.echo.prevEcho = false) ∧
    (s.echo.state = .waitRise ∧ s.echo.phase = .stamp → s.echo.prevEcho = true) ∧
    (s.echo.state = .waitFall ∧ s.echo.phase = .sample → s.echo.prevEcho = true) ∧
    (s.echo.state = .waitFall ∧ s.echo.phase = .stamp → s.echo.prevEcho = false)
  /-- The marks are clock values of the past. -/
  marks : s.echo.tMark ≤ s.clk ∧ s.echo.tWait ≤ s.clk

/-- `lat_prev[p] = ext[p]` in every bank (R162). -/
def LatchInv (s : State) : Prop :=
  ∀ bk ∈ s.banks, bk.latPrev = bk.ext

/-- No measurement yet: D30 has seen no rising edge and has reported nothing (R198, the constant LOW echo). -/
def NoEdgeYet (s : State) : Prop :=
  s.echo.reports = [] ∧ s.echo.prevEcho = false ∧ s.echo.phase ≠ .stamp ∧ s.echo.state ≠ .waitFall ∧
    s.echo.state ≠ .complete

/-- The echo line is LOW: bit `ECHO_BIT` of the pads of the echo port (R42). -/
def EchoLow (s : State) : Prop :=
  ∀ bk, s.banks[s.cfg.echoBank]? = some bk → (bk.ext[s.cfg.echoPort]).getLsbD s.cfg.echoBit = false

/-- Word `w` is what R110 lets a read of a slot holding `v` return, with implemented bits `mask` and drawn word `d`:
anything drawn while the slot is `UNKNOWN`; the stored word as written; or the stored bits where implemented and drawn bits
elsewhere. -/
def ReadsSlot (mode : ReservedRead) (mask : Word32) (v : Slot) (d w : Word32) : Prop :=
  match v, mode with
  | .unknown, _ => w = d
  | .word x, .asWritten => w = x
  | .word x, .draw => ∀ i, i < 32 → w.getLsbD i = if mask.getLsbD i then x.getLsbD i else d.getLsbD i

/-- The transaction a request decodes to on this machine, if any. -/
def State.performs (s : State) (r : Request) (b : Nat) (i : Instr) : Prop :=
  decodeRequest s.cfg s.banks.length r = .ok b i

/-- The write transaction `i` on bank `b` may be performed in the turn an event stands for: by `SW` when it is its next
item, by `EXT` when it is the event's request, or by D30, which writes nothing but `OUT` of the trigger port (R183, R184). -/
def State.mayWrite (s : State) (e : Event) (b : Nat) (i : Instr) : Prop :=
  match e with
  | .sw => ∃ r, s.sw.prog[s.sw.k]? = some (.bus r) ∧ s.performs r b i
  | .ext r => s.cfg.externalWriters = true ∧ s.performs r b i
  | .echo => b = s.cfg.trigBank ∧ ∃ high, i = .wrOut s.cfg.trigPort (levelWord s.cfg.trigMask high)
  | .env _ _ _ | .clk _ => False

/-! Software's duties (premises of claims, never checked by the machine). -/

/-- The lines software runs before `ECHO.START` (R147, R180). -/
def echoSetup (cfg : Config) : List Line :=
  [.pinDir cfg.trigBank cfg.trigPort true, .pinNoint cfg.trigBank cfg.trigPort,
    .pinDir cfg.echoBank cfg.echoPort false, .pinNoint cfg.echoBank cfg.echoPort,
    .pinEdgecfg cfg.echoBank cfg.echoPort]

/-- A write that software must not issue while D30 runs (R180). -/
def forbiddenWrite (cfg : Config) (b : Nat) (i : Instr) : Bool :=
  match i with
  | .wrOut p _ => decide (b = cfg.trigBank ∧ p = cfg.trigPort)
  | .wrOe p _ | .wrCnf p _ =>
    decide (b = cfg.trigBank ∧ p = cfg.trigPort) || decide (b = cfg.echoBank ∧ p = cfg.echoPort)
  | _ => false

/-- D30 is running: not `OFF`, `HALTED` or `FAULTED` (R180). -/
def Echo.running (e : Echo) : Bool :=
  e.state != .off && e.state != .halted && e.state != .faulted

/-- The next item of `SW` keeps the duty of R180. -/
def State.dutyKept (s : State) : Bool :=
  !s.echo.running ||
    match s.sw.prog[s.sw.k]? with
    | some (.bus r) =>
      match decodeRequest s.cfg s.banks.length r with
      | .ok b i => !forbiddenWrite s.cfg b i
      | .fault _ => true
    | _ => true

/-! Runs. -/

/-- No agent has faulted and no step was refused (R220, R221). -/
def State.clean (s : State) : Bool :=
  !s.sw.fault.isSome && !s.echo.fault.isSome && !s.extFault.isSome && !s.clkFault.isSome && !s.refused

/-- The run has ended normally: no fault, `SW` at the end of its list, D30 `OFF` or `HALTED` (R43, R197). R197's words cannot
be literal, for `ENV` and `CLK` always have a step (R160, R161): they and `EXT` count only by their faults (DESIGN CHOICE,
assumption log 16). -/
def State.ended (s : State) : Bool :=
  s.clean && decide (s.sw.prog.length ≤ s.sw.k) && (s.echo.state == .off || s.echo.state == .halted)

/-- A fair schedule of an infinite run: `SW` and D30 get turns for ever, and the clock advances for ever (R161, D29). It asks no
turns of `ENV`, which is always enabled (R160), nor of `EXT`, where D29 speaks of every agent that stays enabled (DESIGN CHOICE,
assumption log 17). -/
def Fair (turn : Nat → Event) : Prop :=
  ∀ n, (∃ m, n ≤ m ∧ turn m = .sw) ∧ (∃ m, n ≤ m ∧ turn m = .echo) ∧ ∃ m d, n ≤ m ∧ 1 ≤ d ∧ turn m = .clk d

end Sys2Proof.Machine
end

