-- ==== Sys2Proof/Certificates/Slice0/Obligations.lean ====
section
/-! DEFINITION. The statements for the provers. Each docstring cites the rule or section of spec/ it formalises; "log n" is
notes/assumptions/n.md and "D n" a decision of 92_eei_decisions.md, marked there as the spec's own choice. -/

open Sys2Proof Sys2Proof.Machine

/-! ## Encoding -/

/-- R94: the 16 opcodes, each at `match | (p << 2)`, and the mask `0x3F3`. -/
def Obligations.OpcodeMapDecodes : Prop :=
  (∀ (p : Port) (d : Word32),
    decodeTd (0x200#10 ||| (BitVec.ofNat 10 p.val <<< 2)) d = .instr (.rdCnf p) ∧
    decodeTd (0x210#10 ||| (BitVec.ofNat 10 p.val <<< 2)) d = .instr (.rdOe p) ∧
    decodeTd (0x220#10 ||| (BitVec.ofNat 10 p.val <<< 2)) d = .instr (.rdOut p) ∧
    decodeTd (0x230#10 ||| (BitVec.ofNat 10 p.val <<< 2)) d = .instr (.rdIn p) ∧
    decodeTd (0x240#10 ||| (BitVec.ofNat 10 p.val <<< 2)) d = .instr (.rdIntSta p) ∧
    decodeTd (0x250#10 ||| (BitVec.ofNat 10 p.val <<< 2)) d = .instr (.rdIntEnb p) ∧
    decodeTd (0x260#10 ||| (BitVec.ofNat 10 p.val <<< 2)) d = .instr (.rdIntLvl p) ∧
    decodeTd (0x270#10 ||| (BitVec.ofNat 10 p.val <<< 2)) d = .instr (.rdIntClr p) ∧
    decodeTd (0x280#10 ||| (BitVec.ofNat 10 p.val <<< 2)) d = .instr (.wrCnf p d) ∧
    decodeTd (0x290#10 ||| (BitVec.ofNat 10 p.val <<< 2)) d = .instr (.wrOe p d) ∧
    decodeTd (0x2A0#10 ||| (BitVec.ofNat 10 p.val <<< 2)) d = .instr (.wrOut p d) ∧
    decodeTd (0x2B0#10 ||| (BitVec.ofNat 10 p.val <<< 2)) d = .instr (.wrIn p d) ∧
    decodeTd (0x2C0#10 ||| (BitVec.ofNat 10 p.val <<< 2)) d = .instr (.wrIntSta p d) ∧
    decodeTd (0x2D0#10 ||| (BitVec.ofNat 10 p.val <<< 2)) d = .instr (.wrIntEnb p d) ∧
    decodeTd (0x2E0#10 ||| (BitVec.ofNat 10 p.val <<< 2)) d = .instr (.wrIntLvl p d) ∧
    decodeTd (0x2F0#10 ||| (BitVec.ofNat 10 p.val <<< 2)) d = .instr (.wrIntClr p d)) ∧
  ∀ (td : BitVec 10) (d : Word32) (i : Instr),
    decodeTd td d = .instr i → td &&& 0x3F3#10 = encodeTd i &&& 0x3F3#10

/-- The words 95_test_vectors.md writes out, through the table's numbering (log 7). -/
def Obligations.SpecWordsDecode : Prop :=
  decodeTableWord 16 0x200 = some (.rdCnf 0) ∧ decodeTableWord 16 0x294 = some (.wrOe 1 0) ∧
    decodeTableWord 16 0x238 = some (.rdIn 2) ∧ decodeTableWord 16 0x2FC = some (.wrIntClr 3 0) ∧
    decodeTableWord 16 0x232 = none ∧ decodeTableWord 16 0x1B2 = none

/-- 30_encoding.md, sections 1 and 2: decoding the encoded request of any instruction on any bank gives that instruction and
that bank; the byte form (log 7) gives it back too, with what follows it. -/
def Obligations.EncodeThenDecode : Prop :=
  (∀ (cfg : Config) (n b : Nat) (i : Instr), b < n → decodeRequest cfg n (encode b i) = .ok b i) ∧
    ∀ (i : Instr) (rest : List Byte), decodeBytes (encodeBytes i ++ rest) = .instr i rest

/-- 30_encoding.md section 3 (D3, D4): every descriptor is rejected for its size, else rejected for its alignment, else the
encoding of exactly the instruction it decodes to, with the data word of the request if it is a write. -/
def Obligations.EveryDescriptorClassified : Prop :=
  ∀ (td : BitVec 10) (d : Word32),
    (td.extractLsb' 8 2 ≠ 0b10#2 → decodeTd td d = .badSize) ∧
    (td.extractLsb' 8 2 = 0b10#2 → td.extractLsb' 0 2 ≠ 0b00#2 → decodeTd td d = .badAlign) ∧
    (td.extractLsb' 8 2 = 0b10#2 → td.extractLsb' 0 2 = 0b00#2 →
      ∃ i, decodeTd td d = .instr i ∧ encodeTd i = td ∧ (i.isWrite = true → i.data = d))

/-- 30_encoding.md section 1 and 60_exceptions.md section 1 (D34): one fault a request, in the order range, size, alignment,
each with its recorded address; a request with none of them is the opcode of its direction at its slot. That the window of
bank `b` begins at `bankBase + b * bankStride` is the model's choice (log 1). -/
def Obligations.RequestFaultPriority : Prop :=
  ∀ (cfg : Config) (n a : Nat) (size : Size) (write : Bool) (d : Word32), cfg.placed n = true →
    ((∀ b, b < n → ¬(cfg.bankBase + b * cfg.bankStride ≤ a ∧ a < cfg.bankBase + b * cfg.bankStride + 0x80)) →
      decodeRequest cfg n (.addr a size write d) = .fault (.range a)) ∧
    ∀ b, b < n → cfg.bankBase + b * cfg.bankStride ≤ a → a < cfg.bankBase + b * cfg.bankStride + 0x80 →
      (size ≠ .b4 → decodeRequest cfg n (.addr a size write d) = .fault (.size a size)) ∧
      (size = .b4 → (a - (cfg.bankBase + b * cfg.bankStride)) % 4 ≠ 0 →
        decodeRequest cfg n (.addr a size write d) = .fault (.align a)) ∧
      (size = .b4 → (a - (cfg.bankBase + b * cfg.bankStride)) % 4 = 0 →
        ∃ r p, a = cfg.bankBase + b * cfg.bankStride + (16 * r.index.toNat + 4 * p.val) ∧
          decodeRequest cfg n (.addr a size write d) = .ok b (opcode write r p d))

/-- 20_memory.md sections 1 and 4 (D38): no two distinct (register, port) pairs of a bank share an address, nor do their
4-byte slots overlap; nor do slots of two banks, whose even spacing is the model's choice (log 1). -/
def Obligations.SlotsNeverAlias : Prop :=
  ∀ (cfg : Config) (n b b' : Nat) (r r' : Reg) (p p' : Port), cfg.placed n = true → b < n → b' < n →
    ¬(b = b' ∧ r = r' ∧ p = p') →
    cfg.slotAddr b r p + 4 ≤ cfg.slotAddr b' r' p' ∨ cfg.slotAddr b' r' p' + 4 ≤ cfg.slotAddr b r p

/-- 40_csr_access.md section 10, effective address: an aligned 4-byte access to `BANK_BASE_b + 16*r + 4*p` is the access to
`REG[p]` of bank `b`, the one its descriptor encodes. That `BANK_BASE_b` is `bankBase + b * bankStride` is the model's choice
(log 1). -/
def Obligations.AddressReachesItsSlot : Prop :=
  ∀ (cfg : Config) (n b : Nat) (r : Reg) (p : Port) (write : Bool) (d : Word32), cfg.placed n = true → b < n →
    decodeRequest cfg n (.addr (cfg.bankBase + b * cfg.bankStride + 16 * r.index.toNat + 4 * p.val) .b4 write d) =
        .ok b (opcode write r p d) ∧
      decodeRequest cfg n (.slot b (encodeTd (opcode write r p d)) d) = .ok b (opcode write r p d)

/-! ## Results of the transactions -/

/-- What the other statements' `deliver` and `retire` are (R39, R43, R111; log 6): the read data goes to the issuing agent,
and `SW` alone logs it and counts the transaction. -/
def Obligations.ResultsGoToTheirIssuer : Prop :=
  ∀ (s : State) (d : Word32) (n : Nat),
    (s.bus.master = .sw →
      s.deliver d n =
        { s with
          bus := { s.bus with rdata := d }
          draws := s.draws + n
          sw := { s.sw with rdlog := s.sw.rdlog ++ [d], k := s.sw.k + 1 } } ∧
      s.retire = { s with sw := { s.sw with k := s.sw.k + 1 } }) ∧
    (s.bus.master ≠ .sw →
      s.deliver d n = { s with bus := { s.bus with rdata := d }, draws := s.draws + n } ∧ s.retire = s)

/-- 40_csr_access.md sections 1 to 8 (D11, D12, D17, D41): each read of CNF, OE, OUT, INT_ENB or INT_LVL completes with a
word `read_storage` allows, and changes nothing else. -/
def Obligations.StorageReadsComplete : Prop :=
  ∀ (s : State) (p : Port) (bk : Bank), s.banks[s.bus.bank]? = some bk →
    (∃ w, exec (.rdCnf p) s = .next (s.deliver w 1) ∧
      ReadsSlot s.cfg.reservedRead s.cfg.implMask bk.csr.cnf[p] (Config.freeWord s.draws) w) ∧
    (∃ w, exec (.rdOe p) s = .next (s.deliver w 1) ∧
      ReadsSlot s.cfg.reservedRead s.cfg.implMask bk.csr.oe[p] (Config.freeWord s.draws) w) ∧
    (∃ w, exec (.rdOut p) s = .next (s.deliver w 1) ∧
      ReadsSlot s.cfg.reservedRead s.cfg.implMask bk.csr.out[p] (Config.freeWord s.draws) w) ∧
    (∃ w, exec (.rdIntEnb p) s = .next (s.deliver w 1) ∧
      ReadsSlot s.cfg.reservedRead s.cfg.implMask bk.csr.intEnb[p] (Config.freeWord s.draws) w) ∧
    ∃ w, exec (.rdIntLvl p) s = .next (s.deliver w 1) ∧
      ReadsSlot s.cfg.reservedRead s.cfg.intLvlImplMask bk.csr.intLvl[p] (Config.freeWord s.draws) w

/-- R113: `WR CNF[p], D` stores `D`, and each pin leaves or enters GPIO mode by its lane of `D`. -/
def Obligations.WriteCnfSetsPinModes : Prop :=
  ∀ (s : State) (p : Port) (d : Word32) (bk : Bank), s.banks[s.bus.bank]? = some bk →
    encodeTd (.wrCnf p d) = 0x280#10 ||| (BitVec.ofNat 10 p.val <<< 2) ∧
    ∃ bk', bk' = { bk with csr := { bk.csr with cnf := bk.csr.cnf.set p (.word d) } } ∧
      exec (.wrCnf p d) s = .next ({ s with banks := s.banks.set s.bus.bank bk' }.retire) ∧
      bk'.csr.cnf[p] = .word d ∧
      ∀ (i : Pin) (e : Word32), bk.csr.oe[p] = .word e →
        (d.getLsbD i = false → bk'.drive p i = .sfio) ∧
        (d.getLsbD i = true → e.getLsbD i = false → bk'.drive p i = .highZ) ∧
        (d.getLsbD i = true → e.getLsbD i = true → ∀ o, bk.csr.out[p] = .word o →
          bk'.drive p i = .driven (o.getLsbD i))

/-- R115: `WR OE[p], D` stores `D`; a GPIO pin becomes an output or an input by its lane of `D`, and an output while
`OUT[p]` is `UNKNOWN` drives an unknown level. -/
def Obligations.WriteOeSetsDirections : Prop :=
  ∀ (s : State) (p : Port) (d : Word32) (bk : Bank), s.banks[s.bus.bank]? = some bk →
    encodeTd (.wrOe p d) = 0x290#10 ||| (BitVec.ofNat 10 p.val <<< 2) ∧
    ∃ bk', bk' = { bk with csr := { bk.csr with oe := bk.csr.oe.set p (.word d) } } ∧
      exec (.wrOe p d) s = .next ({ s with banks := s.banks.set s.bus.bank bk' }.retire) ∧
      bk'.csr.oe[p] = .word d ∧
      ∀ (i : Pin) (c : Word32), bk.csr.cnf[p] = .word c → c.getLsbD i = true →
        (d.getLsbD i = false → bk'.drive p i = .highZ) ∧
        (d.getLsbD i = true → bk.csr.out[p] = .unknown → bk'.drive p i = .unknown) ∧
        (d.getLsbD i = true → ∀ o, bk.csr.out[p] = .word o → bk'.drive p i = .driven (o.getLsbD i))

/-- R117: `WR OUT[p], D` stores `D`; it drives a GPIO output at once, and a pin that is not one later, when it becomes one;
the pads and the edge latch stay. -/
def Obligations.WriteOutSetsLevels : Prop :=
  ∀ (s : State) (p : Port) (d : Word32) (bk : Bank), s.banks[s.bus.bank]? = some bk →
    encodeTd (.wrOut p d) = 0x2A0#10 ||| (BitVec.ofNat 10 p.val <<< 2) ∧
    ∃ bk', bk' = { bk with csr := { bk.csr with out := bk.csr.out.set p (.word d) } } ∧
      exec (.wrOut p d) s = .next ({ s with banks := s.banks.set s.bus.bank bk' }.retire) ∧
      bk'.csr.out[p] = .word d ∧ bk'.ext = bk.ext ∧
      (∀ (i : Pin) (c e : Word32), bk.csr.cnf[p] = .word c → bk.csr.oe[p] = .word e →
        (c.getLsbD i = true → e.getLsbD i = true → bk'.drive p i = .driven (d.getLsbD i)) ∧
        (¬(c.getLsbD i = true ∧ e.getLsbD i = true) → bk'.drive p i = bk.drive p i)) ∧
      ∀ (i : Pin) (c e : Word32), c.getLsbD i = true → e.getLsbD i = true →
        Bank.drive { bk' with csr := { bk'.csr with cnf := bk'.csr.cnf.set p (.word c), oe := bk'.csr.oe.set p (.word e) } }
          p i = .driven (d.getLsbD i)

/-- R123: `WR INT_ENB[p], D` stores `D`; a zero low byte keeps the port from asserting `irq` whatever the status bits hold,
and a set lane of a pending pin asserts `irq` at once. -/
def Obligations.WriteIntEnbGatesIrq : Prop :=
  ∀ (s : State) (p : Port) (d : Word32) (bk : Bank), s.banks[s.bus.bank]? = some bk →
    encodeTd (.wrIntEnb p d) = 0x2D0#10 ||| (BitVec.ofNat 10 p.val <<< 2) ∧
    ∃ bk', bk' = { bk with csr := { bk.csr with intEnb := bk.csr.intEnb.set p (.word d) } } ∧
      exec (.wrIntEnb p d) s = .next ({ s with banks := s.banks.set s.bus.bank bk' }.retire) ∧
      bk'.csr.intEnb[p] = .word d ∧
      (d.extractLsb' 0 8 = 0#8 → bk'.irqPort p = .lo) ∧
      ∀ i : Pin, d.getLsbD i = true → (bk.sta[p])[i] = .hi → bk'.irqPort p = .hi ∧ bk'.irq = .hi

/-- 40_csr_access.md section 8 (D17): `WR INT_LVL[p], D` stores `D` and changes no status bit, no pad and not `irq`; from
the next `ENV` step on, `D = EDGE_BOTH` makes every level change latch and nothing else. -/
def Obligations.WriteIntLvlSetsMode : Prop :=
  ∀ (s : State) (p : Port) (d : Word32) (bk : Bank), s.banks[s.bus.bank]? = some bk →
    ∃ bk', bk' = { bk with csr := { bk.csr with intLvl := bk.csr.intLvl.set p (.word d) } } ∧
      exec (.wrIntLvl p d) s = .next ({ s with banks := s.banks.set s.bus.bank bk' }.retire) ∧
      bk'.csr.intLvl[p] = .word d ∧ bk'.sta = bk.sta ∧ bk'.ext = bk.ext ∧ bk'.irq = bk.irq ∧
      (d = s.cfg.edgeBoth → ∀ (draw : Pin → Bool) (v : Byte) (i : Pin),
        ((bk'.envStep s.cfg.edgeBoth draw p v).sta[p])[i] =
          if (bk.ext[p]).getLsbD i = v.getLsbD i then (bk.sta[p])[i] else .hi)

/-- 40_csr_access.md section 5 (D13, D20): `RD IN[p]` completes with the pad levels in bits 7:0, whatever CNF, OE and OUT hold,
and drawn bits above them. -/
def Obligations.ReadInSeesPads : Prop :=
  ∀ (s : State) (p : Port) (bk : Bank), s.banks[s.bus.bank]? = some bk →
    ∃ w, exec (.rdIn p) s = .next (s.deliver w 1) ∧
      (∀ i, i < 8 → w.getLsbD i = (bk.ext[p]).getLsbD i) ∧
      ∀ i, 8 ≤ i → i < 32 → w.getLsbD i = (Config.freeWord s.draws).getLsbD i

/-- 40_csr_access.md section 5 (D16): `WR IN[p], D` takes `F_RO_WRITE`, always: the issuing agent records the descriptor and
nothing else changes. -/
def Obligations.WriteInFaults : Prop :=
  ∀ (s : State) (p : Port) (d : Word32) (bk : Bank), s.banks[s.bus.bank]? = some bk →
    exec (.wrIn p d) s = .next (s.raise (.roWrite (0x2B0#10 ||| (BitVec.ofNat 10 p.val <<< 2))))

/-- 40_csr_access.md section 6 (D14, D43): `RD INT_STA[p]` completes with the latched bits, a drawn bit for each `UNKNOWN` one
and drawn bits above them, and clears nothing. -/
def Obligations.ReadStatusReturnsLatches : Prop :=
  ∀ (s : State) (p : Port) (bk : Bank), s.banks[s.bus.bank]? = some bk →
    ∃ w, exec (.rdIntSta p) s = .next (s.deliver w 8) ∧
      (∀ i : Pin,
        ((bk.sta[p])[i] = .lo → w.getLsbD i = false) ∧ ((bk.sta[p])[i] = .hi → w.getLsbD i = true) ∧
        ((bk.sta[p])[i] = .unknown → w.getLsbD i = Config.freeBit (s.draws + i))) ∧
      ∀ i, 8 ≤ i → i < 32 → w.getLsbD i = (Config.freeWord s.draws).getLsbD i

/-- 40_csr_access.md sections 6 and 9 (D14, D15): `WR INT_STA[p], D` and `WR INT_CLR[p], D` complete with the same effect: the
status bits written as 1 are 0, the others stay, and nothing else changes; bits 31:8 of `D` have no effect. -/
def Obligations.StatusWritesClearOnes : Prop :=
  ∀ (s : State) (p : Port) (d : Word32) (bk : Bank), s.banks[s.bus.bank]? = some bk →
    ∃ st : Vector Tri 8,
      (∀ i : Pin, st[i] = if d.getLsbD i then .lo else (bk.sta[p])[i]) ∧
      exec (.wrIntSta p d) s =
        .next ({ s with banks := s.banks.set s.bus.bank { bk with sta := bk.sta.set p st } }.retire) ∧
      exec (.wrIntClr p d) s =
        .next ({ s with banks := s.banks.set s.bus.bank { bk with sta := bk.sta.set p st } }.retire)

/-- 40_csr_access.md section 9 (D15): `RD INT_CLR[p]` completes with a drawn word and clears nothing. -/
def Obligations.ReadClearReturnsDraw : Prop :=
  ∀ (s : State) (p : Port) (bk : Bank), s.banks[s.bus.bank]? = some bk →
    exec (.rdIntClr p) s = .next (s.deliver (Config.freeWord s.draws) 1)

/-! ## Frames -/

/-- 20_memory.md section 2 (D14): the frame of the eight reads. No bank changes, whichever the read; `SW`'s list stays, the
agents that do not issue it keep all they hold, and on a bank that exists no fault register changes. -/
def Obligations.ReadsChangeNoBank : Prop :=
  ∀ (i : Instr) (s t : State), i.isWrite = false → exec i s = .next t →
    t.banks = s.banks ∧ t.cfg = s.cfg ∧ t.clk = s.clk ∧ t.clkFault = s.clkFault ∧ t.refused = s.refused ∧
    t.sched = s.sched ∧ t.events = s.events ∧ t.sw.prog = s.sw.prog ∧
    t.bus.master = s.bus.master ∧ t.bus.bank = s.bus.bank ∧
    (s.bus.master ≠ .sw → t.sw = s.sw) ∧ (s.bus.master ≠ .echo → t.echo = s.echo) ∧
    (s.bus.master ≠ .ext → t.extFault = s.extFault) ∧
    (s.banks[s.bus.bank]? ≠ none →
      t.sw.fault = s.sw.fault ∧ t.echo = s.echo ∧ t.extFault = s.extFault)

/-- 40_csr_access.md sections 1 to 9: the frame of the eight writes. Every other bank, and in the bank every slot and status
port but the one the instruction names, the pads and the edge latch, are as before; so is everything outside the banks but
`SW`'s position and, for `WR IN`, the fault register of the issuing agent. -/
def Obligations.WritesTouchOnlyTheirSlot : Prop :=
  ∀ (i : Instr) (s t : State), i.isWrite = true → exec i s = .next t →
    (∀ b, b ≠ s.bus.bank → t.banks[b]? = s.banks[b]?) ∧
    (∀ bk, s.banks[s.bus.bank]? = some bk →
      ∃ bk', t.banks[s.bus.bank]? = some bk' ∧ bk'.ext = bk.ext ∧ bk'.latPrev = bk.latPrev ∧
        (∀ (r : StorageReg) (q : Port), r.reg ≠ i.reg ∨ q ≠ i.port → bk'.csr.get r q = bk.csr.get r q) ∧
        (∀ q : Port, (i.reg ≠ .intSta ∧ i.reg ≠ .intClr) ∨ q ≠ i.port → bk'.sta[q] = bk.sta[q]) ∧
        (i.reg ≠ .inp → t.echo = s.echo ∧ t.extFault = s.extFault ∧ t.sw.fault = s.sw.fault)) ∧
    t.cfg = s.cfg ∧ t.clk = s.clk ∧ t.clkFault = s.clkFault ∧ t.refused = s.refused ∧ t.draws = s.draws ∧
    t.sched = s.sched ∧ t.events = s.events ∧ t.bus = s.bus ∧ t.sw.prog = s.sw.prog ∧ t.sw.rdlog = s.sw.rdlog ∧
    (s.bus.master ≠ .sw → t.sw = s.sw) ∧ (s.bus.master ≠ .echo → t.echo = s.echo) ∧
    (s.bus.master ≠ .ext → t.extFault = s.extFault)

/-- 30_encoding.md section 1, 60_exceptions.md section 1 and 43_echo_timer.md section 3 (D34, D35): a request that decoding
faults changes no bank; its agent records the fault, D30 also goes to `FAULTED`, and the other agents keep all they hold.
That `SW`'s index stays is the reading of log 5. -/
def Obligations.FaultingRequestChangesNoBank : Prop :=
  ∀ (m : Master) (r : Request) (s : State) (f : FaultRec), decodeRequest s.cfg s.banks.length r = .fault f →
    ∃ t, issue m r s = .next t ∧ t.banks = s.banks ∧ t.cfg = s.cfg ∧ t.clk = s.clk ∧ t.clkFault = s.clkFault ∧
      t.refused = s.refused ∧ t.draws = s.draws ∧ t.sched = s.sched ∧ t.events = s.events ∧
      t.sw = (if m = .sw then { s.sw with fault := some (s.sw.fault.getD f) } else s.sw) ∧
      t.echo =
        (if m = .echo then { s.echo with fault := some (s.echo.fault.getD f), state := .faulted, phase := .none }
        else s.echo) ∧
      t.extFault = (if m = .ext then some (s.extFault.getD f) else s.extFault)

/-- 20_memory.md section 4 (D38): no access to one bank changes another bank's state. -/
def Obligations.BanksAreIndependent : Prop :=
  ∀ (m : Master) (r : Request) (s t : State) (b b' : Nat) (i : Instr),
    decodeRequest s.cfg s.banks.length r = .ok b i → issue m r s = .next t → b' ≠ b →
    t.banks[b']? = s.banks[b']?

/-- 40_csr_access.md section 1 (D11), the default `AS_WRITTEN`: a read returns exactly the last word written to that slot. -/
def Obligations.WriteThenReadReturnsIt : Prop :=
  ∀ (s : State) (p : Port) (d : Word32) (bk : Bank), s.banks[s.bus.bank]? = some bk →
    s.cfg.reservedRead = .asWritten →
    ∀ wr rd, (wr = .wrCnf p d ∧ rd = .rdCnf p ∨ wr = .wrOe p d ∧ rd = .rdOe p ∨ wr = .wrOut p d ∧ rd = .rdOut p ∨
        wr = .wrIntEnb p d ∧ rd = .rdIntEnb p ∨ wr = .wrIntLvl p d ∧ rd = .rdIntLvl p) →
      ∃ t u, exec wr s = .next t ∧ exec rd t = .next u ∧ u.bus.rdata = d ∧ u.banks = t.banks ∧
        (s.bus.master = .sw → u.sw.rdlog = s.sw.rdlog ++ [d] ∧ u.sw.k = s.sw.k + 2)

/-- 20_memory.md section 2: two equal writes have the effect of one on the banks. -/
def Obligations.EqualWritesActOnce : Prop :=
  ∀ (i : Instr) (s t u : State), i.isWrite = true → exec i s = .next t → exec i t = .next u → u.banks = t.banks

/-! ## The step and the agents -/

/-- 10_state.md R43 and 42_pad_events.md R166 as the model has them (log 2, 6): the next turn is the head of `sched`, or the
free value when `sched` is empty; in `SW`'s or `EXT`'s turn, a request that decodes to an instruction on a bank is run as
that instruction, by that agent, on that bank. The last clause says it of `step` itself, for `SW`. -/
def Obligations.StepRunsDecodedInstruction : Prop :=
  (∀ (s : State) (e : Event) (rest : List Event), s.sched = e :: rest →
    step s = runEvent e { s with sched := rest }) ∧
  (∀ s : State, s.sched = [] → step s = runEvent (Config.freeEvent s.events) { s with events := s.events + 1 }) ∧
  ∀ (s : State) (r : Request) (b : Nat) (i : Instr), decodeRequest s.cfg s.banks.length r = .ok b i →
    (s.cfg.externalWriters = true → s.extFault = none →
      runEvent (.ext r) s = exec i { s with bus := { s.bus with master := .ext, bank := b } }) ∧
    (s.sw.fault = none → s.sw.prog[s.sw.k]? = some (.bus r) →
      runEvent .sw s = exec i { s with bus := { s.bus with master := .sw, bank := b } } ∧
      ∀ rest, s.sched = .sw :: rest →
        step s = exec i { s with sched := rest, bus := { s.bus with master := .sw, bank := b } })

/-- 10_state.md section 6 and 43_echo_timer.md section 3 (D35, D37): an agent that has faulted, `SW` past its list, D30 in a
state with no step rule and `EXT` without `EXTERNAL_WRITERS` take no step. That their turn leaves the machine as it is is the
model's choice (log 2), and so is that `CLK` has a register for its refusal and stands still after it (log 4). -/
def Obligations.StoppedAgentsStandStill : Prop :=
  ∀ s : State,
    (s.sw.fault ≠ none ∨ s.sw.prog.length ≤ s.sw.k → runEvent .sw s = .next s) ∧
    (s.echo.fault ≠ none ∨ s.echo.state = .off ∨ s.echo.state = .halted ∨ s.echo.state = .faulted →
      runEvent .echo s = .next s) ∧
    (∀ r, s.extFault ≠ none ∨ s.cfg.externalWriters = false → runEvent (.ext r) s = .next s) ∧
    ∀ d, s.clkFault ≠ none → runEvent (.clk d) s = .next s

/-- 10_state.md section 6 (D35): a fault never clears, in any step; nor does the mark of a refused run (log 4). -/
def Obligations.FaultsAreSticky : Prop :=
  ∀ (s t : State) (f : FaultRec), step s = .next t →
    (s.sw.fault = some f → t.sw.fault = some f) ∧ (s.echo.fault = some f → t.echo.fault = some f) ∧
    (s.extFault = some f → t.extFault = some f) ∧ (s.clkFault = some f → t.clkFault = some f) ∧
    (s.refused = true → t.refused = true)

/-- 42_pad_events.md section 1 (D22) and 70_reset_and_hazards.md section 4: the clock never decreases, and nothing but a
`CLK` turn advances it. -/
def Obligations.ClockNeverGoesBack : Prop :=
  ∀ s t : State, step s = .next t →
    s.clk ≤ t.clk ∧ ((∀ d, s.nextEvent.1 ≠ .clk d) → t.clk = s.clk)

/-- 10_state.md section 6 (D23, D24) and log 1: no step changes a parameter, D30's pin binding among them, or the number of
banks. -/
def Obligations.ParametersNeverChange : Prop :=
  ∀ s t : State, step s = .next t → t.cfg = s.cfg ∧ t.banks.length = s.banks.length

/-- 42_pad_events.md section 4 (D20), no loopback: only an `ENV` turn changes a pad level, and only of its port. -/
def Obligations.OnlyEnvMovesPads : Prop :=
  ∀ (s t : State) (b : Nat) (bk : Bank), step s = .next t → s.banks[b]? = some bk →
    ∃ bk', t.banks[b]? = some bk' ∧
      ((∀ b' p v, s.nextEvent.1 ≠ .env b' p v) → bk'.ext = bk.ext) ∧
      ∀ b' p v, s.nextEvent.1 = .env b' p v →
        ∀ q : Port, bk'.ext[q] = if b' = b ∧ q = p then v else bk.ext[q]

/-- 42_pad_events.md section 2 (D17, D18): a status bit changes only to 1, in an `ENV` turn of its port, or to 0, by a write to
INT_STA or INT_CLR of its port with a 1 in its lane. -/
def Obligations.StatusBitWriters : Prop :=
  ∀ (s t : State) (b : Nat) (bk bk' : Bank) (p : Port) (i : Pin), step s = .next t →
    s.banks[b]? = some bk → t.banks[b]? = some bk' → (bk'.sta[p])[i] ≠ (bk.sta[p])[i] →
    ((bk'.sta[p])[i] = .hi ∧ ∃ v, s.nextEvent.1 = .env b p v) ∨
    ((bk'.sta[p])[i] = .lo ∧ ∃ d : Word32, d.getLsbD i = true ∧
      (s.mayWrite s.nextEvent.1 b (.wrIntSta p d) ∨ s.mayWrite s.nextEvent.1 b (.wrIntClr p d)))

/-- 40_csr_access.md section 1 as a rule of the whole machine: a storage slot changes only to the data word of a write
transaction to it, issued by the agent whose turn it is. -/
def Obligations.StorageSlotWriters : Prop :=
  ∀ (s t : State) (b : Nat) (bk bk' : Bank) (r : StorageReg) (p : Port), step s = .next t →
    s.banks[b]? = some bk → t.banks[b]? = some bk' → bk'.csr.get r p ≠ bk.csr.get r p →
    ∃ i : Instr, i.isWrite = true ∧ i.reg = r.reg ∧ i.port = p ∧ bk'.csr.get r p = .word i.data ∧
      s.mayWrite s.nextEvent.1 b i

/-- 42_pad_events.md sections 1 and 2 (D17, D18, D21; log 12): an `ENV` turn completes: the port's pads and edge latch take the
new levels, and a status bit is set where there is an event and kept elsewhere: under EDGE_BOTH a level change, under any other
level word the free predicate, while INT_LVL is `UNKNOWN` a draw. -/
def Obligations.EnvStepLatches : Prop :=
  ∀ (s : State) (b : Nat) (p : Port) (v : Byte) (bk : Bank), s.banks[b]? = some bk →
    ∃ bk', runEvent (.env b p v) s = .next { s with banks := s.banks.set b bk', draws := s.draws + 8 } ∧
      bk'.csr = bk.csr ∧
      (∀ q : Port, bk'.ext[q] = (if q = p then v else bk.ext[q]) ∧
        bk'.latPrev[q] = (if q = p then v else bk.latPrev[q]) ∧ (q ≠ p → bk'.sta[q] = bk.sta[q])) ∧
      ∀ i : Pin, ∃ ev : Bool, (bk'.sta[p])[i] = (if ev then .hi else (bk.sta[p])[i]) ∧
        (bk.csr.intLvl[p] = .unknown → ev = Config.freeBit (s.draws + i)) ∧
        (bk.csr.intLvl[p] = .word s.cfg.edgeBoth → ev = ((bk.ext[p]).getLsbD i != v.getLsbD i)) ∧
        ∀ l, bk.csr.intLvl[p] = .word l → l ≠ s.cfg.edgeBoth →
          ev = Config.intEventOther l i ((bk.ext[p]).getLsbD i) (v.getLsbD i)

/-- 42_pad_events.md section 1 (D22): a `CLK` turn of `d >= 1` advances the clock by `d`, unless that would pass
`2^CLK_WIDTH - 1`: then the refusal is recorded, the run is marked (log 4) and the clock stays. -/
def Obligations.ClockStepAdvancesOrRefuses : Prop :=
  ∀ (s : State) (d : Nat), s.clkFault = none → 1 ≤ d →
    (s.cfg.clkWidth = none → runEvent (.clk d) s = .next { s with clk := s.clk + d }) ∧
    ∀ w, s.cfg.clkWidth = some w →
      (s.clk + d < 2 ^ w → runEvent (.clk d) s = .next { s with clk := s.clk + d }) ∧
      (2 ^ w ≤ s.clk + d → runEvent (.clk d) s = .next { s with clkFault := some .clkWrap, refused := true })

/-- 20_memory.md section 3 (D10): a fetch by `SW` from a bank's window is refused with `F_FETCH` and changes no bank (log 4).
That it is a range fault outside every window is the model's choice (log 12), and so is where the windows stand (log 1). -/
def Obligations.FetchIsRefused : Prop :=
  ∀ (s : State) (a : Nat), s.sw.fault = none → s.sw.prog[s.sw.k]? = some (.fetch a) →
    (∀ b, b < s.banks.length → s.cfg.bankBase + b * s.cfg.bankStride ≤ a →
      a < s.cfg.bankBase + b * s.cfg.bankStride + 0x80 →
      runEvent .sw s =
        .next
          { s with
            sw := { s.sw with fault := some (.fetch a) }, bus := { s.bus with master := .sw }, refused := true }) ∧
    ((∀ b, b < s.banks.length → ¬(s.cfg.bankBase + b * s.cfg.bankStride ≤ a ∧
        a < s.cfg.bankBase + b * s.cfg.bankStride + 0x80)) →
      runEvent .sw s =
        .next { s with sw := { s.sw with fault := some (.range a) }, bus := { s.bus with master := .sw } })

/-! ## D30 -/

/-- 43_echo_timer.md section 1 (D23, D25; log 10): `ECHO.START` starts D30 from `OFF` with a well-formed configuration; in any
other state it is refused with `F_START_BUSY`; with an ill-formed one the machine refuses. -/
def Obligations.EchoStartOutcomes : Prop :=
  ∀ s : State, s.sw.fault = none → s.sw.prog[s.sw.k]? = some .echoStart →
    (s.echo.state = .off → s.cfg.echoWellFormed = true →
      runEvent .sw s =
        .next
          { s with
            echo :=
              { s.echo with
                state := .idle, phase := .assert, cyclesDone := 0, reports := [], prevEcho := false, tRise := none,
                tFall := none }
            sw := { s.sw with k := s.sw.k + 1 } }) ∧
    (s.echo.state ≠ .off →
      runEvent .sw s =
        .next
          { s with
            sw := { s.sw with fault := some .startBusy }, bus := { s.bus with master := .sw }, refused := true }) ∧
    (s.echo.state = .off → s.cfg.echoWellFormed = false → runEvent .sw s = .refused .illFormedEcho)

/-- 43_echo_timer.md section 1 (D23): the five conditions of a well-formed D30 configuration. -/
def Obligations.EchoConfigurationConditions : Prop :=
  ∀ cfg : Config, cfg.echoWellFormed = true ↔
    (cfg.trigBank, cfg.trigPort) ≠ (cfg.echoBank, cfg.echoPort) ∧ cfg.echoBit ≤ 7 ∧ cfg.trigMask ≠ 0 ∧
      1 ≤ cfg.tTrigUs ∧ 1 ≤ cfg.usPerCm

/-- 43_echo_timer.md sections 2 and 3 (D35): `IDLE / ASSERT` writes the zero-extended mask to `OUT` of the trigger port, unsets
the timestamps, marks the clock and goes to `HOLD`; a decoding fault of the write is recorded and D30 is `FAULTED`, with no
change to a bank. That the fault of an absent bank is a range fault at the slot's address is the model's choice (log 12, with
log 1's spacing). -/
def Obligations.AssertRaisesTrigger : Prop :=
  ∀ s : State, s.echo.fault = none → s.echo.state = .idle → s.echo.phase = .assert →
    encodeTd (.wrOut s.cfg.trigPort (s.cfg.trigMask.setWidth 32)) =
      0x2A0#10 ||| (BitVec.ofNat 10 s.cfg.trigPort.val <<< 2) ∧
    (∀ bk, s.banks[s.cfg.trigBank]? = some bk →
      runEvent .echo s =
        .next
          { s with
            banks :=
              s.banks.set s.cfg.trigBank
                { bk with
                  csr := { bk.csr with out := bk.csr.out.set s.cfg.trigPort (.word (s.cfg.trigMask.setWidth 32)) } }
            bus := { s.bus with master := .echo, bank := s.cfg.trigBank }
            echo := { s.echo with tRise := none, tFall := none, tMark := s.clk, phase := .hold } }) ∧
    (s.banks[s.cfg.trigBank]? = none →
      runEvent .echo s =
        .next
          { s with
            bus := { s.bus with master := .echo }
            echo :=
              { s.echo with
                fault := some (.range (s.cfg.slotAddr s.cfg.trigBank .out s.cfg.trigPort)), state := .faulted,
                phase := .none } })

/-- 43_echo_timer.md section 2 (D29): `IDLE / HOLD` is held until the trigger has been high for `T_TRIG_US`; then it writes 0 to
the trigger port, sets `prev_echo` LOW and begins the wait for the rising edge; a decoding fault of the write is recorded and
D30 is `FAULTED` in the same step, with no change to a bank (section 3, D35). That the fault of an absent bank is a range fault
at the slot's address is the model's choice (log 12, with log 1's spacing). -/
def Obligations.HoldEndsTrigger : Prop :=
  ∀ s : State, s.echo.fault = none → s.echo.state = .idle → s.echo.phase = .hold →
    (s.clk - s.echo.tMark < s.cfg.tTrigUs → runEvent .echo s = .next s) ∧
    (s.cfg.tTrigUs ≤ s.clk - s.echo.tMark →
      (∀ bk, s.banks[s.cfg.trigBank]? = some bk →
        runEvent .echo s =
          .next
            { s with
              banks :=
                s.banks.set s.cfg.trigBank
                  { bk with csr := { bk.csr with out := bk.csr.out.set s.cfg.trigPort (.word 0) } }
              bus := { s.bus with master := .echo, bank := s.cfg.trigBank }
              echo := { s.echo with prevEcho := false, tWait := s.clk, state := .waitRise, phase := .sample } }) ∧
      (s.banks[s.cfg.trigBank]? = none →
        runEvent .echo s =
          .next
            { s with
              bus := { s.bus with master := .echo }
              echo :=
                { s.echo with
                  fault := some (.range (s.cfg.slotAddr s.cfg.trigBank .out s.cfg.trigPort)), state := .faulted,
                  phase := .none } }))

/-- 43_echo_timer.md section 2 (D27, D28, D31): while the timeout has not expired, `WAIT_RISE / SAMPLE` and `WAIT_FALL / SAMPLE`
read `IN` of the echo port, take bit `ECHO_BIT`, go to `STAMP` on a change from the other level to HIGH or to LOW, and keep the
level seen; a decoding fault of the read is recorded and D30 is `FAULTED` in the same step, with no change to a bank (section 3,
D35). That the fault of an absent bank is a range fault at the slot's address is the model's choice (log 12, with log 1's
spacing). -/
def Obligations.SamplesDetectEdges : Prop :=
  ∀ (s : State) (edge : Bool), s.echo.fault = none →
    s.echo.state = (if edge then .waitRise else .waitFall) → s.echo.phase = .sample →
    (∀ t, s.cfg.echoTimeoutUs = some t → s.clk - s.echo.tWait ≤ t) →
    (∀ bk, s.banks[s.cfg.echoBank]? = some bk → s.cfg.echoBit ≤ 7 →
      ∃ w : Word32, w.extractLsb' 0 8 = bk.ext[s.cfg.echoPort] ∧
        runEvent .echo s =
          .next
            { s with
              bus := { master := .echo, bank := s.cfg.echoBank, rdata := w }
              draws := s.draws + 1
              echo :=
                { s.echo with
                  phase :=
                    if s.echo.prevEcho ≠ edge ∧ (bk.ext[s.cfg.echoPort]).getLsbD s.cfg.echoBit = edge then .stamp
                    else .sample
                  prevEcho := (bk.ext[s.cfg.echoPort]).getLsbD s.cfg.echoBit } }) ∧
    (s.banks[s.cfg.echoBank]? = none →
      runEvent .echo s =
        .next
          { s with
            bus := { s.bus with master := .echo }
            echo :=
              { s.echo with
                fault := some (.range (s.cfg.slotAddr s.cfg.echoBank .inp s.cfg.echoPort)), state := .faulted,
                phase := .none } })

/-- 43_echo_timer.md section 2 (D28): the two `STAMP` steps record the clock and go on, timeout or not. -/
def Obligations.StampsRecordTheClock : Prop :=
  ∀ s : State, s.echo.fault = none → s.echo.phase = .stamp →
    (s.echo.state = .waitRise →
      runEvent .echo s =
        .next
          { s with echo := { s.echo with tRise := some s.clk, tWait := s.clk, state := .waitFall, phase := .sample } }) ∧
    (s.echo.state = .waitFall →
      runEvent .echo s =
        .next { s with echo := { s.echo with tFall := some s.clk, state := .complete, phase := .report } })

/-- R189: `COMPLETE / REPORT` computes `t_fall - t_rise` and its quotient by `US_PER_CM`, appends the record, counts the cycle,
marks the clock and goes to `GAP`. -/
def Obligations.ReportComputesDistance : Prop :=
  ∀ (s : State) (r f : Nat), s.echo.fault = none → s.echo.state = .complete → s.echo.phase = .report →
    s.echo.tRise = some r → s.echo.tFall = some f → r ≤ f → 1 ≤ s.cfg.usPerCm →
    runEvent .echo s =
      .next
        { s with
          echo :=
            { s.echo with
              elapsedUs := some (f - r)
              distanceCm := some (((f : Rat) - (r : Rat)) / (s.cfg.usPerCm : Rat))
              reports := s.echo.reports ++
                [{ cycle := s.echo.cyclesDone, tRise := r, tFall := f, elapsedUs := f - r,
                   distanceCm := ((f : Rat) - (r : Rat)) / (s.cfg.usPerCm : Rat) }]
              cyclesDone := s.echo.cyclesDone + 1
              tMark := s.clk
              phase := .gap } }

/-- 43_echo_timer.md section 2 (D29, D30, D33): `COMPLETE / GAP` is held until `T_GAP_US` has passed; then D30 halts when the
fixed number of cycles is done, and else begins the next cycle. -/
def Obligations.GapEndsCycle : Prop :=
  ∀ s : State, s.echo.fault = none → s.echo.state = .complete → s.echo.phase = .gap →
    (s.clk - s.echo.tMark < s.cfg.tGapUs → runEvent .echo s = .next s) ∧
    (s.cfg.tGapUs ≤ s.clk - s.echo.tMark →
      (∀ n, s.cfg.nCycles = some n → n ≤ s.echo.cyclesDone →
        runEvent .echo s = .next { s with echo := { s.echo with state := .halted, phase := .none } }) ∧
      ((∀ n, s.cfg.nCycles = some n → s.echo.cyclesDone < n) →
        runEvent .echo s = .next { s with echo := { s.echo with state := .idle, phase := .assert } }))

/-- 43_echo_timer.md section 3 (D31): in a wait state's `SAMPLE`, once the clock is more than the timeout past `t_wait`, D30
records `E_ECHO_TIMEOUT` with the state and is `FAULTED`; nothing else changes. -/
def Obligations.TimeoutStopsEcho : Prop :=
  ∀ (s : State) (t : Nat), s.echo.fault = none → s.echo.state = .waitRise ∨ s.echo.state = .waitFall →
    s.echo.phase = .sample → s.cfg.echoTimeoutUs = some t → t < s.clk - s.echo.tWait →
    runEvent .echo s =
      .next
        { s with
          echo := { s.echo with fault := some (.echoTimeout s.echo.state), state := .faulted, phase := .none } }

/-- 43_echo_timer.md section 3, the invariants derived there: every step of any agent keeps D30's invariant. -/
def Obligations.EchoInvariantKept : Prop :=
  ∀ s t : State, EchoInv s → step s = .next t → EchoInv t

/-- D30's invariant holds at reset (70_reset_and_hazards.md section 1). -/
def Obligations.EchoInvariantAtReset : Prop :=
  EchoInv State.reset

/-- 43_echo_timer.md section 3 (the constant LOW echo; D27): as long as the echo line is LOW, no step makes D30 see an edge or
report. -/
def Obligations.LowEchoReportsNothing : Prop :=
  ∀ s t : State, NoEdgeYet s → EchoLow s → s.cfg.echoBit ≤ 7 → step s = .next t → NoEdgeYet t

/-- 00_scope.md section 6 and log 10, 11: in states that meet D30's invariant the machine never stops with a fault, and is
refused only for an `ECHO.START` with an ill-formed configuration. -/
def Obligations.OnlyIllFormedStartStops : Prop :=
  ∀ s : State, EchoInv s →
    (∀ r, step s ≠ .fault r) ∧
    ∀ r, step s = .refused r →
      r = .illFormedEcho ∧ s.cfg.echoWellFormed = false ∧ s.nextEvent.1 = .sw ∧
        s.sw.prog[s.sw.k]? = some .echoStart

/-- 42_pad_events.md section 2 (D18): `lat_prev[p] = ext[p]` holds at reset and after every step. -/
def Obligations.LatchMemoryFollowsPads : Prop :=
  LatchInv State.reset ∧ ∀ s t : State, LatchInv s → step s = .next t → LatchInv t

/-! ## Outputs, reset, software -/

/-- 10_state.md section 3: the pad drive of a pin as a function of CNF, OE and OUT. -/
def Obligations.PadDriveFollowsRegisters : Prop :=
  ∀ (bk : Bank) (p : Port) (i : Pin),
    (bk.csr.cnf[p] = .unknown ∨ bk.csr.oe[p] = .unknown → bk.drive p i = .unknown) ∧
    ∀ c e : Word32, bk.csr.cnf[p] = .word c → bk.csr.oe[p] = .word e →
      (c.getLsbD i = false → bk.drive p i = .sfio) ∧
      (c.getLsbD i = true → e.getLsbD i = false → bk.drive p i = .highZ) ∧
      (c.getLsbD i = true → e.getLsbD i = true →
        (bk.csr.out[p] = .unknown → bk.drive p i = .unknown) ∧
        ∀ o, bk.csr.out[p] = .word o → bk.drive p i = .driven (o.getLsbD i))

/-- 10_state.md section 3 (D19): `irq` is 1 exactly when some pin is pending and enabled, 0 exactly when every pin is
definitely not pending or not enabled, and `UNKNOWN` otherwise; with every INT_ENB low byte 0 it is 0. -/
def Obligations.IrqIsOrOfEnabledPending : Prop :=
  ∀ bk : Bank,
    (bk.irq = .hi ↔ ∃ (p : Port) (i : Pin) (w : Word32),
      (bk.sta[p])[i] = .hi ∧ bk.csr.intEnb[p] = .word w ∧ w.getLsbD i = true) ∧
    (bk.irq = .lo ↔ ∀ (p : Port) (i : Pin),
      (bk.sta[p])[i] = .lo ∨ ∃ w, bk.csr.intEnb[p] = .word w ∧ w.getLsbD i = false) ∧
    ((∀ p : Port, ∃ w : Word32, bk.csr.intEnb[p] = .word w ∧ w.extractLsb' 0 8 = 0#8) → bk.irq = .lo)

/-- 70_reset_and_hazards.md section 1 (D12, D25, D43): the state at reset, and the parameters' defaults of 00_scope.md. The pad
levels and the clock are free (log 8); that the model has a bank and no program at reset is log 8 and log 9. -/
def Obligations.ResetState : Prop :=
  (∀ (b : Nat) (bk : Bank), State.reset.banks[b]? = some bk →
    (∀ (r : StorageReg) (p : Port), bk.csr.get r p = .unknown) ∧
    (∀ (p : Port) (i : Pin), (bk.sta[p])[i] = .unknown) ∧ bk.latPrev = bk.ext ∧
    (∀ (p : Port) (i : Pin), bk.drive p i = .unknown) ∧ bk.irq = .unknown) ∧
  0 < State.reset.banks.length ∧
  State.reset.echo =
    { state := .off, phase := .none, prevEcho := false, tRise := none, tFall := none, tMark := 0, tWait := 0,
      elapsedUs := none, distanceCm := none, cyclesDone := 0, reports := [], fault := none } ∧
  State.reset.sw = { prog := [], k := 0, rdlog := [], fault := none } ∧
  State.reset.extFault = none ∧ State.reset.clkFault = none ∧ State.reset.refused = false ∧
  State.reset.cfg.reservedRead = .asWritten ∧ State.reset.cfg.implMask = 0xFF ∧ State.reset.cfg.pinMask = 0xFF ∧
  State.reset.cfg.trigMask = 0xFF ∧ State.reset.cfg.echoBit = 5 ∧ State.reset.cfg.tTrigUs = 10 ∧
  State.reset.cfg.tGapUs = 1000000 ∧ State.reset.cfg.usPerCm = 58 ∧ State.reset.cfg.echoTimeoutUs = none ∧
  State.reset.cfg.externalWriters = false ∧ State.reset.cfg.clkWidth = none ∧
  State.reset.cfg.cnfGpioAll = 0x000000FF ∧ State.reset.cfg.oeOutput = 0x000000FF ∧
  State.reset.cfg.oeInput = 0x00000000 ∧ State.reset.cfg.intEnbNone = 0x00000000 ∧
  State.reset.cfg.intStaAck = 0x000000FF ∧ State.reset.cfg.intClrAll = 0x00FFFFFF

/-- R141: `PIN.DIR p, d` is `WR CNF[p], 0xFF` then `WR OE[p], 0xFF` or `0`, and a port above 3 is refused. The two complete with
no fault: after the first the port is in GPIO mode with its old OE, after the second CNF and OE are as written, whatever they
held before (so that repeating it, or OUT, IN, OUT, leaves the last one's encoding), and nothing else of the bank changes. -/
def Obligations.PinDirSetsDirection : Prop :=
  (∀ (n b q : Nat) (toOut : Bool), 4 ≤ q → (Line.pinDir b q toOut).wellFormed n = false) ∧
  ∀ (s : State) (b : Nat) (p : Port) (toOut : Bool) (bk : Bank), s.banks[b]? = some bk →
    s.cfg.cnfGpioAll = 0x000000FF → s.cfg.oeOutput = 0x000000FF → s.cfg.oeInput = 0x00000000 →
    ∃ d : Word32, d = (if toOut then 0x000000FF else 0x00000000) ∧
      itemsOf s.cfg (.pinDir b p.val toOut) =
        some [.bus (encode b (.wrCnf p 0x000000FF)), .bus (encode b (.wrOe p d))] ∧
      ∀ m, ∃ t u, issue m (encode b (.wrCnf p 0x000000FF)) s = .next t ∧ issue m (encode b (.wrOe p d)) t = .next u ∧
        (∃ bk₁, t.banks = s.banks.set b bk₁ ∧
          bk₁ = { bk with csr := { bk.csr with cnf := bk.csr.cnf.set p (.word 0x000000FF) } }) ∧
        (∃ bk₂, u.banks = s.banks.set b bk₂ ∧
          bk₂ =
            { bk with
              csr := { bk.csr with cnf := bk.csr.cnf.set p (.word 0x000000FF), oe := bk.csr.oe.set p (.word d) } }) ∧
        u.sw.fault = s.sw.fault ∧ u.echo = s.echo ∧ u.extFault = s.extFault

/-- 41_pin_sequences.md, disable interrupts (D11): `PIN.NOINT p` is `WR INT_ENB[p], 0`, and a port above 3 is refused. It
completes with no fault; after it the port contributes 0 to `irq`, no status bit has changed, and a read of INT_ENB[p] returns 0
where a read returns the word as written (D11's default). -/
def Obligations.PinNointDisablesPort : Prop :=
  (∀ n b q : Nat, 4 ≤ q → (Line.pinNoint b q).wellFormed n = false) ∧
  ∀ (s : State) (b : Nat) (p : Port) (bk : Bank), s.banks[b]? = some bk → s.cfg.intEnbNone = 0x00000000 →
    itemsOf s.cfg (.pinNoint b p.val) = some [.bus (encode b (.wrIntEnb p 0x00000000))] ∧
    ∀ m, ∃ t bk', issue m (encode b (.wrIntEnb p 0x00000000)) s = .next t ∧ t.banks = s.banks.set b bk' ∧
      bk' = { bk with csr := { bk.csr with intEnb := bk.csr.intEnb.set p (.word 0x00000000) } } ∧ bk'.irqPort p = .lo ∧
      t.sw.fault = s.sw.fault ∧ t.echo = s.echo ∧ t.extFault = s.extFault ∧
      (s.cfg.reservedRead = .asWritten →
        ∃ u, issue m (encode b (.rdIntEnb p)) t = .next u ∧ u.bus.rdata = 0)

/-- 41_pin_sequences.md (configure input edge detection): `PIN.EDGECFG p` is `WR INT_STA[p], 0xFF`, `WR INT_LVL[p], EDGE_BOTH`, `WR INT_CLR[p], 0xFFFFFF`; after the three every
status bit of the port is 0, INT_LVL holds EDGE_BOTH, the pads are as before, and the next level change of a pin latches. -/
def Obligations.PinEdgecfgArmsLatch : Prop :=
  ∀ (s : State) (b : Nat) (p : Port) (bk : Bank), s.banks[b]? = some bk → s.cfg.intStaAck = 0x000000FF →
    s.cfg.intClrAll = 0x00FFFFFF →
    itemsOf s.cfg (.pinEdgecfg b p.val) =
      some
        [.bus (encode b (.wrIntSta p 0x000000FF)), .bus (encode b (.wrIntLvl p s.cfg.edgeBoth)),
          .bus (encode b (.wrIntClr p 0x00FFFFFF))] ∧
    ∀ m, ∃ t u v bk', issue m (encode b (.wrIntSta p 0x000000FF)) s = .next t ∧
      issue m (encode b (.wrIntLvl p s.cfg.edgeBoth)) t = .next u ∧
      issue m (encode b (.wrIntClr p 0x00FFFFFF)) u = .next v ∧ v.banks = s.banks.set b bk' ∧
      (∀ i : Pin, (bk'.sta[p])[i] = .lo) ∧ (∀ q : Port, q ≠ p → bk'.sta[q] = bk.sta[q]) ∧
      bk'.csr = { bk.csr with intLvl := bk.csr.intLvl.set p (.word s.cfg.edgeBoth) } ∧ bk'.ext = bk.ext ∧
      ∀ (draw : Pin → Bool) (x : Byte) (i : Pin), x.getLsbD i ≠ (bk.ext[p]).getLsbD i →
        ((bk'.envStep s.cfg.edgeBoth draw p x).sta[p])[i] = .hi

/-- 41_pin_sequences.md R144 and R145 (D23, D24): `PIN.SET p, v, m` is `WR OUT[p]` of the zero-extended mask or of 0, the default
mask being PIN_MASK; `PIN.GET p, k` is `RD IN[p]`, and the level taken from its word is the pad level of pin `k` alone. -/
def Obligations.PinSetAndGetExpand : Prop :=
  (∀ (cfg : Config) (b : Nat) (p : Port) (m : Byte),
    itemsOf cfg (.pinSet b p.val 1 (some m.toNat)) = some [.bus (encode b (.wrOut p (m.setWidth 32)))] ∧
    itemsOf cfg (.pinSet b p.val 1 none) = some [.bus (encode b (.wrOut p (cfg.pinMask.setWidth 32)))] ∧
    itemsOf cfg (.pinSet b p.val 0 (some m.toNat)) = some [.bus (encode b (.wrOut p 0))] ∧
    itemsOf cfg (.pinSet b p.val 0 none) = some [.bus (encode b (.wrOut p 0))]) ∧
  ∀ (s : State) (p : Port) (bk : Bank) (k : Option Nat), s.banks[s.bus.bank]? = some bk → s.cfg.echoBit ≤ 7 →
    (∀ j, k = some j → j ≤ 7) →
    itemsOf s.cfg (.pinGet s.bus.bank p.val k) = some [.bus (encode s.bus.bank (.rdIn p))] ∧
    ∃ t, exec (.rdIn p) s = .next t ∧
      pinLevel t.bus.rdata (getBit s.cfg k) = (bk.ext[p]).getLsbD (k.getD s.cfg.echoBit)

/-- 30_encoding.md section 4 and 60_exceptions.md section 1 (D40). A line passes the checks exactly when its bank index names one
of the `n` banks, its port is in 0..3, its register name is one of the eight, its immediate is below `2^32` and its bit index is
in 0..7, as far as its form has them; that a level of `PIN.SET` is 0 or 1 and its mask below 256 is DEDUCED (log 9), and that
`PIN.GET` with no bit passes whatever `ECHO_BIT` is and that a blank line passes are the model's choices (log 15, log 13). A
program with a line the checks refuse is refused whole, and launching it (log 9) leaves `SW` with nothing to issue; that the
line recorded is the first such line, whatever lines follow it, is the model's choice (log 14). A program whose every line
passes is assembled, and every item of it that is a request decodes to an instruction. -/
def Obligations.AssemblerRefusesWholeProgram : Prop :=
  (∀ n b p : Nat,
    Line.blank.wellFormed n = true ∧ Line.echoStart.wellFormed n = true ∧
    (∀ r : List Char,
      ((Line.rd b r p).wellFormed n = true ↔
        b < n ∧ p < 4 ∧
          r ∈ ["CNF".toList, "OE".toList, "OUT".toList, "IN".toList, "INT_STA".toList, "INT_ENB".toList,
            "INT_LVL".toList, "INT_CLR".toList]) ∧
      ∀ d : Nat, (Line.wr b r p d).wellFormed n = true ↔ (Line.rd b r p).wellFormed n = true ∧ d < 2 ^ 32) ∧
    (∀ out : Bool, (Line.pinDir b p out).wellFormed n = true ↔ b < n ∧ p < 4) ∧
    ((Line.pinNoint b p).wellFormed n = true ↔ b < n ∧ p < 4) ∧
    ((Line.pinEdgecfg b p).wellFormed n = true ↔ b < n ∧ p < 4) ∧
    (∀ (v : Nat) (m : Option Nat),
      (Line.pinSet b p v m).wellFormed n = true ↔ b < n ∧ p < 4 ∧ v ≤ 1 ∧ ∀ x, m = some x → x < 256) ∧
    ∀ k : Option Nat, (Line.pinGet b p k).wellFormed n = true ↔ b < n ∧ p < 4 ∧ ∀ j, k = some j → j < 8) ∧
  (∀ (cfg : Config) (n : Nat) (good : List Line) (bad : Line) (rest : List Line),
    (∀ l ∈ good, l.wellFormed n = true) → bad.wellFormed n = false →
    assemble cfg n (good ++ bad :: rest) = .refusedLine good.length) ∧
  (∀ (cfg : Config) (n : Nat) (ls : List Line), (∀ l ∈ ls, l.wellFormed n = true) →
    ∃ items, assemble cfg n ls = .items items ∧
      ∀ r, SwItem.bus r ∈ items → ∃ b i, decodeRequest cfg n r = .ok b i) ∧
  ∀ (s : State) (ls : List Line) (n : Nat), assemble s.cfg s.banks.length ls = .refusedLine n → s.sw.fault = none →
    (s.launch true ls).sw = { prog := [], k := 0, rdlog := [], fault := some (.config n) } ∧
    (s.launch true ls).banks = s.banks

/-- 60_exceptions.md section 1 (D44; log 9): with no mapping the launch records `E_MAPPING` and no transaction is issued; with a
mapping an assembled program starts at its first item. -/
def Obligations.LaunchNeedsMapping : Prop :=
  ∀ (s : State) (ls : List Line), s.sw.fault = none →
    (s.launch false ls).sw = { prog := [], k := 0, rdlog := [], fault := some .mapping } ∧
    runEvent .sw (s.launch false ls) = .next (s.launch false ls) ∧
    ∀ items, assemble s.cfg s.banks.length ls = .items items →
      s.launch true ls = { s with sw := { prog := items, k := 0, rdlog := [], fault := none } }

/-- 30_encoding.md section 4 (D2): `RD` and `WR` of each of the eight names are the request of that register's opcode at the
port, the immediate unchanged; a line with nothing on it has no item, and `ECHO.START` is the host command. -/
def Obligations.PlainLinesExpand : Prop :=
  ∀ (cfg : Config) (b : Nat) (p : Port) (d : Word32),
    itemsOf cfg .blank = some [] ∧ itemsOf cfg .echoStart = some [.echoStart] ∧
    ∀ x ∈ [("CNF".toList, Reg.cnf), ("OE".toList, Reg.oe), ("OUT".toList, Reg.out), ("IN".toList, Reg.inp),
        ("INT_STA".toList, Reg.intSta), ("INT_ENB".toList, Reg.intEnb), ("INT_LVL".toList, Reg.intLvl),
        ("INT_CLR".toList, Reg.intClr)],
      itemsOf cfg (.rd b x.1 p.val) = some [.bus (encode b (opcode false x.2 p 0))] ∧
      itemsOf cfg (.wr b x.1 p.val d.toNat) = some [.bus (encode b (opcode true x.2 p d))]
end

