-- ==== Sys2Proof/Laws/Decode.lean ====
section
/-! SUPPORT. The fields of an encoded descriptor, and what decoding makes of it. -/

namespace Sys2Proof

@[simp] theorem Reg.ofIndex_index (r : Reg) : Reg.ofIndex r.index = r := by
  cases r <;> rfl

@[simp] theorem Reg.index_ofIndex : ∀ r : BitVec 3, (Reg.ofIndex r).index = r := by
  decide

@[simp] theorem opcode_isWrite (w : Bool) (r : Reg) (p : Port) (d : Word32) : (opcode w r p d).isWrite = w := by
  cases w <;> cases r <;> rfl

@[simp] theorem opcode_reg (w : Bool) (r : Reg) (p : Port) (d : Word32) : (opcode w r p d).reg = r := by
  cases w <;> cases r <;> rfl

@[simp] theorem opcode_port (w : Bool) (r : Reg) (p : Port) (d : Word32) : (opcode w r p d).port = p := by
  cases w <;> cases r <;> rfl

@[simp] theorem opcode_data (r : Reg) (p : Port) (d : Word32) : (opcode true r p d).data = d := by
  cases r <;> rfl

/-- An instruction is the opcode of its own fields. -/
theorem opcode_fields (i : Instr) (d : Word32) (h : i.isWrite = true → d = i.data) :
    opcode i.isWrite i.reg i.port d = i := by
  cases i <;> first | rfl | rw [h rfl]; rfl

/-- The fields of the descriptor that packs `W`, `REG` and `PORT`. -/
theorem packed_fields : ∀ (w : Bool) (r : BitVec 3) (p : Port),
    tdSize (0b10#2 ++ BitVec.ofBool w ++ r ++ BitVec.ofNat 2 p.val ++ 0b00#2) = 0b10 ∧
    tdByte (0b10#2 ++ BitVec.ofBool w ++ r ++ BitVec.ofNat 2 p.val ++ 0b00#2) = 0b00 ∧
    tdWrite (0b10#2 ++ BitVec.ofBool w ++ r ++ BitVec.ofNat 2 p.val ++ 0b00#2) = w ∧
    tdReg (0b10#2 ++ BitVec.ofBool w ++ r ++ BitVec.ofNat 2 p.val ++ 0b00#2) = r ∧
    tdPort (0b10#2 ++ BitVec.ofBool w ++ r ++ BitVec.ofNat 2 p.val ++ 0b00#2) = p := by
  decide

@[simp] theorem tdSize_encode (i : Instr) : tdSize (encodeTd i) = 0b10 := (packed_fields ..).1

@[simp] theorem tdByte_encode (i : Instr) : tdByte (encodeTd i) = 0b00 := (packed_fields ..).2.1

@[simp] theorem tdWrite_encode (i : Instr) : tdWrite (encodeTd i) = i.isWrite := (packed_fields ..).2.2.1

@[simp] theorem tdReg_encode (i : Instr) : tdReg (encodeTd i) = i.reg.index := (packed_fields ..).2.2.2.1

@[simp] theorem tdPort_encode (i : Instr) : tdPort (encodeTd i) = i.port := (packed_fields ..).2.2.2.2

/-- A descriptor with the right size and alignment packs its own fields. -/
theorem packed_of_fields : ∀ td : BitVec 10, tdSize td = 0b10 → tdByte td = 0b00 →
    0b10#2 ++ BitVec.ofBool (tdWrite td) ++ tdReg td ++ BitVec.ofNat 2 (tdPort td).val ++ 0b00#2 = td := by
  decide +kernel

/-- What a descriptor decodes to, by its fields. -/
theorem decodeTd_size (td : BitVec 10) (d : Word32) (h : tdSize td ≠ 0b10) : decodeTd td d = .badSize := by
  rw [decodeTd, if_pos h]

theorem decodeTd_align (td : BitVec 10) (d : Word32) (h : tdSize td = 0b10) (h' : tdByte td ≠ 0b00) :
    decodeTd td d = .badAlign := by
  rw [decodeTd, if_neg (not_not.mpr h), if_pos h']

theorem decodeTd_instr (td : BitVec 10) (d : Word32) (h : tdSize td = 0b10) (h' : tdByte td = 0b00) :
    decodeTd td d = .instr (opcode (tdWrite td) (Reg.ofIndex (tdReg td)) (tdPort td) d) := by
  rw [decodeTd, if_neg (not_not.mpr h), if_neg (not_not.mpr h')]

/-- The offset of a slot is in its window, and different slots are 4 bytes apart or more. -/
theorem slotOffset_lt (r : Reg) (p : Port) : slotOffset r p + 4 ≤ bankSize := by
  have := p.isLt
  cases r <;> simp [slotOffset, bankSize, Reg.index] <;> omega

/-- The padded view's slot is the flat view's (R64). -/
theorem paddedOffset_eq (r : Reg) (p : Port) : paddedOffset r p = slotOffset r p := by
  simp [paddedOffset, slotOffset]
  omega

/-- The windows of a well-placed platform lie one after the other. -/
theorem Config.baseOf_sep {cfg : Config} {n b b' : Nat} (h : cfg.placed n = true) (hb' : b' < n) (hlt : b < b') :
    cfg.baseOf b + bankSize ≤ cfg.baseOf b' := by
  simp only [Config.placed, Bool.and_eq_true, Bool.or_eq_true, decide_eq_true_eq] at h
  obtain ⟨h | h, -⟩ := h
  · omega
  · have : (b + 1) * cfg.bankStride ≤ b' * cfg.bankStride := Nat.mul_le_mul_right _ hlt
    rw [Nat.add_mul] at this
    simp only [Config.baseOf, bankSize]
    omega

/-- Exactly the eight names of R20 name a register. -/
theorem Reg.ofName_isSome (n : List Char) :
    (Reg.ofName n).isSome = true ↔
      n ∈ ["CNF".toList, "OE".toList, "OUT".toList, "IN".toList, "INT_STA".toList, "INT_ENB".toList, "INT_LVL".toList,
        "INT_CLR".toList] := by
  simp only [List.mem_cons, List.not_mem_nil, or_false, Reg.ofName]
  split_ifs <;> simp_all

end Sys2Proof
end

