-- ==== Sys2Proof/Laws/Flags.lean ====
section
/-! SUPPORT. The three-valued AND and OR of `irq`, each said once (10_state.md R37). -/

namespace Sys2Proof.Machine

theorem triAnd_eq_hi (a b : Tri) : triAnd a b = .hi ↔ a = .hi ∧ b = .hi := by
  cases a <;> cases b <;> simp [triAnd]

theorem triAnd_eq_lo (a b : Tri) : triAnd a b = .lo ↔ a = .lo ∨ b = .lo := by
  cases a <;> cases b <;> simp [triAnd]

theorem slotBit_eq_hi (v : Slot) (i : Pin) : slotBit v i = .hi ↔ ∃ w, v = .word w ∧ w.getLsbD i = true := by
  cases v <;> simp [slotBit]

theorem slotBit_eq_lo (v : Slot) (i : Pin) : slotBit v i = .lo ↔ ∃ w, v = .word w ∧ w.getLsbD i = false := by
  cases v <;> simp [slotBit]

/-- An OR over a list is definitely 1 when it starts so or some term is. -/
theorem foldl_triOr_eq_hi {α : Type} (l : List α) (f : α → Tri) (x : Tri) :
    l.foldl (fun acc i => triOr acc (f i)) x = .hi ↔ x = .hi ∨ ∃ a ∈ l, f a = .hi := by
  induction l generalizing x with
  | nil => simp
  | cons a l ih =>
    simp only [List.foldl_cons, ih, List.mem_cons, exists_eq_or_imp]
    cases x <;> cases f a <;> simp [triOr]

/-- An OR over a list is definitely 0 when it starts so and every term is. -/
theorem foldl_triOr_eq_lo {α : Type} (l : List α) (f : α → Tri) (x : Tri) :
    l.foldl (fun acc i => triOr acc (f i)) x = .lo ↔ x = .lo ∧ ∀ a ∈ l, f a = .lo := by
  induction l generalizing x with
  | nil => simp
  | cons a l ih =>
    simp only [List.foldl_cons, ih, List.mem_cons, forall_eq_or_imp]
    cases x <;> cases f a <;> simp [triOr]

end Sys2Proof.Machine
end

