-- ==== Sys2Proof/Laws/State.lean ====
section
/-! SUPPORT. One lemma per field for each update of the state. -/

namespace Sys2Proof.Machine

variable (s : State) (m : Master) (b : Nat) (f : FaultRec) (d : Word32) (n : Nat) (bk : Bank)

@[simp] theorem State.grant_cfg : (s.grant m).cfg = s.cfg := rfl
@[simp] theorem State.grant_banks : (s.grant m).banks = s.banks := rfl
@[simp] theorem State.grant_clk : (s.grant m).clk = s.clk := rfl
@[simp] theorem State.grant_clkFault : (s.grant m).clkFault = s.clkFault := rfl
@[simp] theorem State.grant_sw : (s.grant m).sw = s.sw := rfl
@[simp] theorem State.grant_echo : (s.grant m).echo = s.echo := rfl
@[simp] theorem State.grant_extFault : (s.grant m).extFault = s.extFault := rfl
@[simp] theorem State.grant_refused : (s.grant m).refused = s.refused := rfl
@[simp] theorem State.grant_draws : (s.grant m).draws = s.draws := rfl
@[simp] theorem State.grant_sched : (s.grant m).sched = s.sched := rfl
@[simp] theorem State.grant_events : (s.grant m).events = s.events := rfl
@[simp] theorem State.grant_bus : (s.grant m).bus = { s.bus with master := m } := rfl

@[simp] theorem State.select_cfg : (s.select b).cfg = s.cfg := rfl
@[simp] theorem State.select_banks : (s.select b).banks = s.banks := rfl
@[simp] theorem State.select_clk : (s.select b).clk = s.clk := rfl
@[simp] theorem State.select_clkFault : (s.select b).clkFault = s.clkFault := rfl
@[simp] theorem State.select_sw : (s.select b).sw = s.sw := rfl
@[simp] theorem State.select_echo : (s.select b).echo = s.echo := rfl
@[simp] theorem State.select_extFault : (s.select b).extFault = s.extFault := rfl
@[simp] theorem State.select_refused : (s.select b).refused = s.refused := rfl
@[simp] theorem State.select_draws : (s.select b).draws = s.draws := rfl
@[simp] theorem State.select_sched : (s.select b).sched = s.sched := rfl
@[simp] theorem State.select_events : (s.select b).events = s.events := rfl
@[simp] theorem State.select_bus : (s.select b).bus = { s.bus with bank := b } := rfl

@[simp] theorem State.setBank_cfg : (s.setBank bk).cfg = s.cfg := rfl
@[simp] theorem State.setBank_clk : (s.setBank bk).clk = s.clk := rfl
@[simp] theorem State.setBank_clkFault : (s.setBank bk).clkFault = s.clkFault := rfl
@[simp] theorem State.setBank_sw : (s.setBank bk).sw = s.sw := rfl
@[simp] theorem State.setBank_echo : (s.setBank bk).echo = s.echo := rfl
@[simp] theorem State.setBank_extFault : (s.setBank bk).extFault = s.extFault := rfl
@[simp] theorem State.setBank_bus : (s.setBank bk).bus = s.bus := rfl
@[simp] theorem State.setBank_refused : (s.setBank bk).refused = s.refused := rfl
@[simp] theorem State.setBank_draws : (s.setBank bk).draws = s.draws := rfl
@[simp] theorem State.setBank_sched : (s.setBank bk).sched = s.sched := rfl
@[simp] theorem State.setBank_events : (s.setBank bk).events = s.events := rfl
@[simp] theorem State.setBank_banks : (s.setBank bk).banks = s.banks.set s.bus.bank bk := rfl

@[simp] theorem State.raise_cfg : (s.raise f).cfg = s.cfg := by unfold State.raise; split <;> rfl
@[simp] theorem State.raise_banks : (s.raise f).banks = s.banks := by unfold State.raise; split <;> rfl
@[simp] theorem State.raise_clk : (s.raise f).clk = s.clk := by unfold State.raise; split <;> rfl
@[simp] theorem State.raise_clkFault : (s.raise f).clkFault = s.clkFault := by unfold State.raise; split <;> rfl
@[simp] theorem State.raise_bus : (s.raise f).bus = s.bus := by unfold State.raise; split <;> rfl
@[simp] theorem State.raise_refused : (s.raise f).refused = s.refused := by unfold State.raise; split <;> rfl
@[simp] theorem State.raise_draws : (s.raise f).draws = s.draws := by unfold State.raise; split <;> rfl
@[simp] theorem State.raise_sched : (s.raise f).sched = s.sched := by unfold State.raise; split <;> rfl
@[simp] theorem State.raise_events : (s.raise f).events = s.events := by unfold State.raise; split <;> rfl

@[simp] theorem State.refuse_cfg : (s.refuse f).cfg = s.cfg := by simp [State.refuse]
@[simp] theorem State.refuse_banks : (s.refuse f).banks = s.banks := by simp [State.refuse]
@[simp] theorem State.refuse_clk : (s.refuse f).clk = s.clk := by simp [State.refuse]
@[simp] theorem State.refuse_clkFault : (s.refuse f).clkFault = s.clkFault := by simp [State.refuse]
@[simp] theorem State.refuse_bus : (s.refuse f).bus = s.bus := by simp [State.refuse]
@[simp] theorem State.refuse_draws : (s.refuse f).draws = s.draws := by simp [State.refuse]
@[simp] theorem State.refuse_sched : (s.refuse f).sched = s.sched := by simp [State.refuse]
@[simp] theorem State.refuse_events : (s.refuse f).events = s.events := by simp [State.refuse]
@[simp] theorem State.refuse_refused : (s.refuse f).refused = true := rfl
@[simp] theorem State.refuse_sw : (s.refuse f).sw = (s.raise f).sw := rfl
@[simp] theorem State.refuse_echo : (s.refuse f).echo = (s.raise f).echo := rfl
@[simp] theorem State.refuse_extFault : (s.refuse f).extFault = (s.raise f).extFault := rfl

@[simp] theorem State.retire_cfg : (s.retire).cfg = s.cfg := by unfold State.retire; split <;> rfl
@[simp] theorem State.retire_banks : (s.retire).banks = s.banks := by unfold State.retire; split <;> rfl
@[simp] theorem State.retire_clk : (s.retire).clk = s.clk := by unfold State.retire; split <;> rfl
@[simp] theorem State.retire_clkFault : (s.retire).clkFault = s.clkFault := by unfold State.retire; split <;> rfl
@[simp] theorem State.retire_echo : (s.retire).echo = s.echo := by unfold State.retire; split <;> rfl
@[simp] theorem State.retire_extFault : (s.retire).extFault = s.extFault := by unfold State.retire; split <;> rfl
@[simp] theorem State.retire_bus : (s.retire).bus = s.bus := by unfold State.retire; split <;> rfl
@[simp] theorem State.retire_refused : (s.retire).refused = s.refused := by unfold State.retire; split <;> rfl
@[simp] theorem State.retire_draws : (s.retire).draws = s.draws := by unfold State.retire; split <;> rfl
@[simp] theorem State.retire_sched : (s.retire).sched = s.sched := by unfold State.retire; split <;> rfl
@[simp] theorem State.retire_events : (s.retire).events = s.events := by unfold State.retire; split <;> rfl

@[simp] theorem State.deliver_cfg : (s.deliver d n).cfg = s.cfg := by unfold State.deliver; split <;> rfl
@[simp] theorem State.deliver_banks : (s.deliver d n).banks = s.banks := by unfold State.deliver; split <;> rfl
@[simp] theorem State.deliver_clk : (s.deliver d n).clk = s.clk := by unfold State.deliver; split <;> rfl
@[simp] theorem State.deliver_clkFault : (s.deliver d n).clkFault = s.clkFault := by unfold State.deliver; split <;> rfl
@[simp] theorem State.deliver_echo : (s.deliver d n).echo = s.echo := by unfold State.deliver; split <;> rfl
@[simp] theorem State.deliver_extFault : (s.deliver d n).extFault = s.extFault := by unfold State.deliver; split <;> rfl
@[simp] theorem State.deliver_refused : (s.deliver d n).refused = s.refused := by unfold State.deliver; split <;> rfl
@[simp] theorem State.deliver_sched : (s.deliver d n).sched = s.sched := by unfold State.deliver; split <;> rfl
@[simp] theorem State.deliver_events : (s.deliver d n).events = s.events := by unfold State.deliver; split <;> rfl
@[simp] theorem State.deliver_bus : (s.deliver d n).bus = { s.bus with rdata := d } := by
  unfold State.deliver; split <;> rfl
@[simp] theorem State.deliver_draws : (s.deliver d n).draws = s.draws + n := by
  unfold State.deliver; split <;> rfl

@[simp] theorem State.nextEvent_cfg : (s.nextEvent.2).cfg = s.cfg := by unfold State.nextEvent; split <;> rfl
@[simp] theorem State.nextEvent_banks : (s.nextEvent.2).banks = s.banks := by unfold State.nextEvent; split <;> rfl
@[simp] theorem State.nextEvent_clk : (s.nextEvent.2).clk = s.clk := by unfold State.nextEvent; split <;> rfl
@[simp] theorem State.nextEvent_clkFault : (s.nextEvent.2).clkFault = s.clkFault := by unfold State.nextEvent; split <;> rfl
@[simp] theorem State.nextEvent_sw : (s.nextEvent.2).sw = s.sw := by unfold State.nextEvent; split <;> rfl
@[simp] theorem State.nextEvent_echo : (s.nextEvent.2).echo = s.echo := by unfold State.nextEvent; split <;> rfl
@[simp] theorem State.nextEvent_extFault : (s.nextEvent.2).extFault = s.extFault := by unfold State.nextEvent; split <;> rfl
@[simp] theorem State.nextEvent_bus : (s.nextEvent.2).bus = s.bus := by unfold State.nextEvent; split <;> rfl
@[simp] theorem State.nextEvent_refused : (s.nextEvent.2).refused = s.refused := by unfold State.nextEvent; split <;> rfl
@[simp] theorem State.nextEvent_draws : (s.nextEvent.2).draws = s.draws := by unfold State.nextEvent; split <;> rfl

/-! What the agents' own registers are after each update. -/

/-- A fault is recorded by the agent on the bus alone. -/
theorem State.raise_sw :
    (s.raise f).sw = if s.bus.master = .sw then { s.sw with fault := recordFault s.sw.fault f } else s.sw := by
  unfold State.raise; split <;> simp_all

theorem State.raise_echo :
    (s.raise f).echo =
      if s.bus.master = .echo then
        { s.echo with fault := recordFault s.echo.fault f, state := .faulted, phase := .none }
      else s.echo := by
  unfold State.raise; split <;> simp_all

theorem State.raise_extFault :
    (s.raise f).extFault = if s.bus.master = .ext then recordFault s.extFault f else s.extFault := by
  unfold State.raise; split <;> simp_all

theorem State.retire_sw :
    s.retire.sw = if s.bus.master = .sw then { s.sw with k := s.sw.k + 1 } else s.sw := by
  unfold State.retire; split <;> simp_all

theorem State.deliver_sw :
    (s.deliver d n).sw =
      if s.bus.master = .sw then { s.sw with rdlog := s.sw.rdlog ++ [d], k := s.sw.k + 1 } else s.sw := by
  unfold State.deliver; split <;> simp_all

/-- A set fault register stays set (R44). -/
@[simp] theorem recordFault_some (g : FaultRec) : recordFault (some g) f = some g := rfl

@[simp] theorem recordFault_none : recordFault none f = some f := rfl

@[simp] theorem recordFault_isSome (o : Option FaultRec) : (recordFault o f).isSome = true := by
  cases o <;> rfl

/-- Only `SW`'s position, log and fault register change in a transaction. -/
@[simp] theorem State.raise_prog : (s.raise f).sw.prog = s.sw.prog := by
  rw [State.raise_sw]; split <;> rfl

@[simp] theorem State.raise_k : (s.raise f).sw.k = s.sw.k := by
  rw [State.raise_sw]; split <;> rfl

@[simp] theorem State.raise_rdlog : (s.raise f).sw.rdlog = s.sw.rdlog := by
  rw [State.raise_sw]; split <;> rfl

@[simp] theorem State.retire_fault : s.retire.sw.fault = s.sw.fault := by
  rw [State.retire_sw]; split <;> rfl

@[simp] theorem State.retire_rdlog : s.retire.sw.rdlog = s.sw.rdlog := by
  rw [State.retire_sw]; split <;> rfl

@[simp] theorem State.retire_prog : s.retire.sw.prog = s.sw.prog := by
  rw [State.retire_sw]; split <;> rfl

@[simp] theorem State.deliver_fault : (s.deliver d n).sw.fault = s.sw.fault := by
  rw [State.deliver_sw]; split <;> rfl

@[simp] theorem State.deliver_prog : (s.deliver d n).sw.prog = s.sw.prog := by
  rw [State.deliver_sw]; split <;> rfl

end Sys2Proof.Machine
end

