-- ==== Sys2Proof/Laws/Ops.lean ====
section
/-! SUPPORT. What the shared operations can do, said once each: the slots and lanes, the accesses of a transaction, a whole
transaction, an agent's request, and D30's steps around its transactions. -/

namespace Sys2Proof

/-! Slots. -/

@[simp] theorem Csr.get_set_same (c : Csr) (r : StorageReg) (p : Port) (v : Slot) : (c.set r p v).get r p = v := by
  cases r <;> simp [Csr.get, Csr.set]

theorem Csr.get_set_other (c : Csr) (r r' : StorageReg) (p p' : Port) (v : Slot) (h : r' ≠ r ∨ p' ≠ p) :
    (c.set r p v).get r' p' = c.get r' p' := by
  have hp : p' ≠ p → p.val ≠ p'.val := fun h e => h (Fin.ext e.symm)
  cases r <;> cases r' <;> simp_all [Csr.get, Csr.set]

theorem StorageReg.reg_inj {r r' : StorageReg} (h : r.reg = r'.reg) : r = r' := by
  cases r <;> cases r' <;> simp_all [StorageReg.reg]

end Sys2Proof

namespace Sys2Proof.Machine

/-! Lanes. -/

@[simp] theorem clearStatus_get (sta : Vector Tri 8) (d : Word32) (i : Pin) :
    (clearStatus sta d)[i] = if d.getLsbD i then .lo else sta[i] := by
  simp [clearStatus]

@[simp] theorem latchStatus_get (e : Word32) (lvl : Slot) (draw : Pin → Bool) (old new : Byte) (sta : Vector Tri 8)
    (i : Pin) :
    (latchStatus e lvl draw old new sta)[i] =
      if latchEvent e lvl draw i (old.getLsbD i) (new.getLsbD i) then .hi else sta[i] := by
  simp [latchStatus]

/-- The lanes of a read word are the byte, and the bits above them the drawn ones. -/
theorem laneWord_getLsbD (b : Byte) (d : Word32) (i : Nat) (h : i < 32) :
    (laneWord b d).getLsbD i = if i < 8 then b.getLsbD i else d.getLsbD i := by
  unfold laneWord
  rw [BitVec.getLsbD_append]
  split
  · rfl
  · rw [BitVec.getLsbD_extractLsb']
    have : 8 + (i - 8) = i := by omega
    have h2 : i - 8 < 24 := by omega
    simp [this, h2]

/-! Accesses. -/

variable {s t : State}

theorem State.access_some (r : Reg) (p : Port) (f : Bank → State) {bk : Bank}
    (h : s.banks[s.bus.bank]? = some bk) : s.access r p f = .next (f bk) := by
  simp [State.access, h]

theorem State.access_none (r : Reg) (p : Port) (f : Bank → State) (h : s.banks[s.bus.bank]? = none) :
    s.access r p f = .next (s.raise (.range (s.cfg.slotAddr s.bus.bank r p))) := by
  simp [State.access, h]

/-! A transaction. -/

/-- What a write leaves of the bank it is for: every other slot and status port, the pads and the edge latch. -/
structure WriteEffect (i : Instr) (bk bk' : Bank) : Prop where
  slots : ∀ r q, r.reg ≠ i.reg ∨ q ≠ i.port → bk'.csr.get r q = bk.csr.get r q
  status : ∀ q : Port, (i.reg ≠ .intSta ∧ i.reg ≠ .intClr) ∨ q ≠ i.port → bk'.sta[q] = bk.sta[q]
  pads : bk'.ext = bk.ext
  latch : bk'.latPrev = bk.latPrev
  /-- The slot the instruction names holds its data word. -/
  stored : ∀ r : StorageReg, r.reg = i.reg → bk'.csr.get r i.port = .word i.data
  /-- The status bits written as 1 are cleared. -/
  cleared : (i.reg = .intSta ∨ i.reg = .intClr) → bk'.sta[i.port] = clearStatus bk.sta[i.port] i.data

theorem writeStorage_effect (r : StorageReg) (p : Port) (d : Word32) (i : Instr) (bk : Bank) (hr : i.reg = r.reg)
    (hp : i.port = p) (hd : i.data = d) :
    WriteEffect i bk { bk with csr := bk.csr.set r p (.word d) } where
  slots r' q h := by
    apply Csr.get_set_other
    rcases h with h | h
    · exact .inl fun e => h (by rw [e, hr])
    · exact .inr fun e => h (by rw [e, hp])
  status q _ := rfl
  pads := rfl
  latch := rfl
  stored r' h := by
    have : r' = r := StorageReg.reg_inj (by rw [h, hr])
    subst this
    simp [hp, hd]
  cleared h := by
    cases r <;> simp_all [StorageReg.reg]

theorem writeStatus_effect (p : Port) (d : Word32) (i : Instr) (bk : Bank) (hr : i.reg = .intSta ∨ i.reg = .intClr)
    (hp : i.port = p) (hd : i.data = d) :
    WriteEffect i bk { bk with sta := bk.sta.set p (clearStatus bk.sta[p] d) } where
  slots r' q _ := rfl
  status q h := by
    have hq : q ≠ p := by
      rcases h with h | h
      · rcases hr with hr | hr <;> simp_all
      · rwa [hp] at h
    have : p.val ≠ q.val := fun e => hq (Fin.ext e.symm)
    simp [this]
  pads := rfl
  latch := rfl
  stored r' h := by rcases hr with hr | hr <;> cases r' <;> simp_all [StorageReg.reg]
  cleared _ := by simp [hp, hd]

/-- Everything a transaction can do: it always completes, by a fault of the agent on the bus, by delivering a word (a read),
or by changing the slot it names in the selected bank (a write). -/
theorem exec_cases (i : Instr) (s : State) :
    ∃ t, exec i s = .next t ∧
      ((∃ f, t = s.raise f ∧ (s.banks[s.bus.bank]? = none ∨ i.reg = .inp ∧ i.isWrite = true)) ∨
        (i.isWrite = false ∧ ∃ d n, t = s.deliver d n) ∨
        (i.isWrite = true ∧ ∃ bk bk', s.banks[s.bus.bank]? = some bk ∧ WriteEffect i bk bk' ∧
          t = (s.setBank bk').retire)) := by
  cases hb : s.banks[s.bus.bank]? with
  | none =>
    cases i <;> exact ⟨_, State.access_none _ _ _ hb, .inl ⟨_, rfl, .inl rfl⟩⟩
  | some bk =>
    cases i with
    | rdCnf p => exact ⟨_, State.access_some _ _ _ hb, .inr (.inl ⟨rfl, _, _, rfl⟩)⟩
    | rdOe p => exact ⟨_, State.access_some _ _ _ hb, .inr (.inl ⟨rfl, _, _, rfl⟩)⟩
    | rdOut p => exact ⟨_, State.access_some _ _ _ hb, .inr (.inl ⟨rfl, _, _, rfl⟩)⟩
    | rdIn p => exact ⟨_, State.access_some _ _ _ hb, .inr (.inl ⟨rfl, _, _, rfl⟩)⟩
    | rdIntSta p => exact ⟨_, State.access_some _ _ _ hb, .inr (.inl ⟨rfl, _, _, rfl⟩)⟩
    | rdIntEnb p => exact ⟨_, State.access_some _ _ _ hb, .inr (.inl ⟨rfl, _, _, rfl⟩)⟩
    | rdIntLvl p => exact ⟨_, State.access_some _ _ _ hb, .inr (.inl ⟨rfl, _, _, rfl⟩)⟩
    | rdIntClr p => exact ⟨_, State.access_some _ _ _ hb, .inr (.inl ⟨rfl, _, _, rfl⟩)⟩
    | wrIn p d => exact ⟨_, State.access_some _ _ _ hb, .inl ⟨_, rfl, .inr ⟨rfl, rfl⟩⟩⟩
    | wrCnf p d =>
      exact ⟨_, State.access_some _ _ _ hb,
        .inr (.inr ⟨rfl, bk, _, rfl, writeStorage_effect .cnf p d _ bk rfl rfl rfl, rfl⟩)⟩
    | wrOe p d =>
      exact ⟨_, State.access_some _ _ _ hb,
        .inr (.inr ⟨rfl, bk, _, rfl, writeStorage_effect .oe p d _ bk rfl rfl rfl, rfl⟩)⟩
    | wrOut p d =>
      exact ⟨_, State.access_some _ _ _ hb,
        .inr (.inr ⟨rfl, bk, _, rfl, writeStorage_effect .out p d _ bk rfl rfl rfl, rfl⟩)⟩
    | wrIntEnb p d =>
      exact ⟨_, State.access_some _ _ _ hb,
        .inr (.inr ⟨rfl, bk, _, rfl, writeStorage_effect .intEnb p d _ bk rfl rfl rfl, rfl⟩)⟩
    | wrIntLvl p d =>
      exact ⟨_, State.access_some _ _ _ hb,
        .inr (.inr ⟨rfl, bk, _, rfl, writeStorage_effect .intLvl p d _ bk rfl rfl rfl, rfl⟩)⟩
    | wrIntSta p d =>
      exact ⟨_, State.access_some _ _ _ hb,
        .inr (.inr ⟨rfl, bk, _, rfl, writeStatus_effect p d _ bk (.inl rfl) rfl rfl, rfl⟩)⟩
    | wrIntClr p d =>
      exact ⟨_, State.access_some _ _ _ hb,
        .inr (.inr ⟨rfl, bk, _, rfl, writeStatus_effect p d _ bk (.inr rfl) rfl rfl, rfl⟩)⟩

/-- Everything an agent's request can do: it always completes, by a fault of that agent, by delivering a word, or by a write
of the bank it selects. -/
theorem issue_cases (m : Master) (r : Request) (s : State) :
    ∃ t, issue m r s = .next t ∧
      ((∃ b f, t = (((s.grant m).select b).raise f)) ∨
        (∃ b i d n, decodeRequest s.cfg s.banks.length r = .ok b i ∧ i.isWrite = false ∧
          t = (((s.grant m).select b).deliver d n)) ∨
        (∃ b i bk bk', decodeRequest s.cfg s.banks.length r = .ok b i ∧ i.isWrite = true ∧
          s.banks[b]? = some bk ∧ WriteEffect i bk bk' ∧ t = (((s.grant m).select b).setBank bk').retire)) := by
  unfold issue
  cases hd : decodeRequest s.cfg s.banks.length r with
  | fault f => exact ⟨_, rfl, .inl ⟨s.bus.bank, f, rfl⟩⟩
  | ok b i =>
    obtain ⟨t, ht, h⟩ := exec_cases i ((s.grant m).select b)
    refine ⟨t, ht, ?_⟩
    rcases h with ⟨f, hf, -⟩ | ⟨hi, d, n, hdn⟩ | ⟨hi, bk, bk', hb, he, hw⟩
    · exact .inl ⟨b, f, hf⟩
    · exact .inr (.inl ⟨b, i, d, n, rfl, hi, hdn⟩)
    · exact .inr (.inr ⟨b, i, bk, bk', rfl, hi, hb, he, hw⟩)

/-- No request changes anything but the banks, the bus, the position in the free values and the registers of the agents. -/
theorem issue_frame {m : Master} {r : Request} (h : issue m r s = .next t) :
    t.cfg = s.cfg ∧ t.clk = s.clk ∧ t.clkFault = s.clkFault ∧ t.refused = s.refused ∧ t.sched = s.sched ∧
      t.events = s.events ∧ t.banks.length = s.banks.length := by
  obtain ⟨t', ht', hc⟩ := issue_cases m r s
  obtain rfl : t = t' := by rw [h] at ht'; exact (Host.Outcome.next.inj ht')
  rcases hc with ⟨b, f, rfl⟩ | ⟨b, i, d, n, -, -, rfl⟩ | ⟨b, i, bk, bk', -, -, -, -, rfl⟩ <;> simp

end Sys2Proof.Machine
end

