-- ==== Sys2Proof/Laws/PerInstr.lean ====
section
/-! SUPPORT. Per instruction: the descriptor its encoder writes matches its own row of the opcode map (30_encoding.md R94). -/

namespace Sys2Proof.Laws.TdMatch

/-- The match word of each row of R94. -/
def matchWord : Instr → BitVec 10
  | .rdCnf _ => 0x200
  | .rdOe _ => 0x210
  | .rdOut _ => 0x220
  | .rdIn _ => 0x230
  | .rdIntSta _ => 0x240
  | .rdIntEnb _ => 0x250
  | .rdIntLvl _ => 0x260
  | .rdIntClr _ => 0x270
  | .wrCnf _ _ => 0x280
  | .wrOe _ _ => 0x290
  | .wrOut _ _ => 0x2A0
  | .wrIn _ _ => 0x2B0
  | .wrIntSta _ _ => 0x2C0
  | .wrIntEnb _ _ => 0x2D0
  | .wrIntLvl _ _ => 0x2E0
  | .wrIntClr _ _ => 0x2F0

/-- The descriptor of `i` under the mask of R94 is the match word of its row, and its port is in bits 3:2. -/
def Statement (i : Instr) : Prop :=
  encodeTd i &&& 0x3F3#10 = matchWord i ∧ tdPort (encodeTd i) = i.port

theorem rdCnf (p : Port) : Statement (.rdCnf p) := by
  refine ⟨?_, tdPort_encode _⟩
  revert p
  simp only [encodeTd, Instr.isWrite, Instr.reg, Instr.port, matchWord]
  decide

theorem rdOe (p : Port) : Statement (.rdOe p) := by
  refine ⟨?_, tdPort_encode _⟩
  revert p
  simp only [encodeTd, Instr.isWrite, Instr.reg, Instr.port, matchWord]
  decide

theorem rdOut (p : Port) : Statement (.rdOut p) := by
  refine ⟨?_, tdPort_encode _⟩
  revert p
  simp only [encodeTd, Instr.isWrite, Instr.reg, Instr.port, matchWord]
  decide

theorem rdIn (p : Port) : Statement (.rdIn p) := by
  refine ⟨?_, tdPort_encode _⟩
  revert p
  simp only [encodeTd, Instr.isWrite, Instr.reg, Instr.port, matchWord]
  decide

theorem rdIntSta (p : Port) : Statement (.rdIntSta p) := by
  refine ⟨?_, tdPort_encode _⟩
  revert p
  simp only [encodeTd, Instr.isWrite, Instr.reg, Instr.port, matchWord]
  decide

theorem rdIntEnb (p : Port) : Statement (.rdIntEnb p) := by
  refine ⟨?_, tdPort_encode _⟩
  revert p
  simp only [encodeTd, Instr.isWrite, Instr.reg, Instr.port, matchWord]
  decide

theorem rdIntLvl (p : Port) : Statement (.rdIntLvl p) := by
  refine ⟨?_, tdPort_encode _⟩
  revert p
  simp only [encodeTd, Instr.isWrite, Instr.reg, Instr.port, matchWord]
  decide

theorem rdIntClr (p : Port) : Statement (.rdIntClr p) := by
  refine ⟨?_, tdPort_encode _⟩
  revert p
  simp only [encodeTd, Instr.isWrite, Instr.reg, Instr.port, matchWord]
  decide

theorem wrCnf (p : Port) (d : Word32) : Statement (.wrCnf p d) := by
  refine ⟨?_, tdPort_encode _⟩
  revert p
  simp only [encodeTd, Instr.isWrite, Instr.reg, Instr.port, matchWord]
  decide

theorem wrOe (p : Port) (d : Word32) : Statement (.wrOe p d) := by
  refine ⟨?_, tdPort_encode _⟩
  revert p
  simp only [encodeTd, Instr.isWrite, Instr.reg, Instr.port, matchWord]
  decide

theorem wrOut (p : Port) (d : Word32) : Statement (.wrOut p d) := by
  refine ⟨?_, tdPort_encode _⟩
  revert p
  simp only [encodeTd, Instr.isWrite, Instr.reg, Instr.port, matchWord]
  decide

theorem wrIn (p : Port) (d : Word32) : Statement (.wrIn p d) := by
  refine ⟨?_, tdPort_encode _⟩
  revert p
  simp only [encodeTd, Instr.isWrite, Instr.reg, Instr.port, matchWord]
  decide

theorem wrIntSta (p : Port) (d : Word32) : Statement (.wrIntSta p d) := by
  refine ⟨?_, tdPort_encode _⟩
  revert p
  simp only [encodeTd, Instr.isWrite, Instr.reg, Instr.port, matchWord]
  decide

theorem wrIntEnb (p : Port) (d : Word32) : Statement (.wrIntEnb p d) := by
  refine ⟨?_, tdPort_encode _⟩
  revert p
  simp only [encodeTd, Instr.isWrite, Instr.reg, Instr.port, matchWord]
  decide

theorem wrIntLvl (p : Port) (d : Word32) : Statement (.wrIntLvl p d) := by
  refine ⟨?_, tdPort_encode _⟩
  revert p
  simp only [encodeTd, Instr.isWrite, Instr.reg, Instr.port, matchWord]
  decide

theorem wrIntClr (p : Port) (d : Word32) : Statement (.wrIntClr p d) := by
  refine ⟨?_, tdPort_encode _⟩
  revert p
  simp only [encodeTd, Instr.isWrite, Instr.reg, Instr.port, matchWord]
  decide

end Sys2Proof.Laws.TdMatch
end

