-- ==== Sys2Proof/Laws/Step.lean ====
section
/-! SUPPORT. Everything a turn can do, said once: one lemma for the turns of all agents and one for D30's. -/

namespace Sys2Proof.Machine

variable {s t : State}

/-! A state without its next turn is the same state everywhere else. -/

/-- The next turn taken off, nothing else has changed. -/
theorem State.nextEvent_eq (s : State) :
    ∃ sched events, s.nextEvent.2 = { s with sched := sched, events := events } := by
  unfold State.nextEvent
  split <;> exact ⟨_, _, rfl⟩

/-! D30. -/

/-- What D30's transaction at the start of a step comes to: a fault, which ends the step, or a request completed, after which
the rest of the step is taken. -/
theorem afterTransaction_next {o : Host.Outcome State Fault Refusal} {f : State → State}
    (h : afterTransaction o f = .next t) :
    ∃ u, o = .next u ∧ ((u.echo.fault.isSome = true ∧ t = u) ∨ (u.echo.fault = none ∧ t = f u)) := by
  cases o with
  | next u =>
    refine ⟨u, rfl, ?_⟩
    change (if u.echo.fault.isSome then Host.Outcome.next u else Host.Outcome.next (f u)) = _ at h
    split at h
    · next hf => exact .inl ⟨hf, (Host.Outcome.next.inj h).symm⟩
    · next hf => exact .inr ⟨by simpa using hf, (Host.Outcome.next.inj h).symm⟩
  | fault r => cases h
  | refused r => cases h

/-- A request of D30 leaves its registers as they are, or records a fault and stops it. -/
theorem issue_echo {r : Request} (h : issue .echo r s = .next t) :
    t.sw = s.sw ∧ t.extFault = s.extFault ∧
      (t.echo = s.echo ∨
        ∃ f, t.banks = s.banks ∧
          t.echo = { s.echo with fault := recordFault s.echo.fault f, state := .faulted, phase := .none }) := by
  obtain ⟨t', ht', hc⟩ := issue_cases .echo r s
  obtain rfl : t = t' := by rw [h] at ht'; exact (Host.Outcome.next.inj ht')
  rcases hc with ⟨b, f, rfl⟩ | ⟨b, i, d, n, -, -, rfl⟩ | ⟨b, i, bk, bk', -, -, -, -, rfl⟩
  · refine ⟨by simp [State.raise_sw], by simp [State.raise_extFault], .inr ⟨f, by simp, ?_⟩⟩
    simp [State.raise_echo]
  · exact ⟨by simp [State.deliver_sw], by simp, .inl (by simp)⟩
  · exact ⟨by simp [State.retire_sw], by simp, .inl (by simp)⟩

/-- A request of another agent leaves D30's registers as they are. -/
theorem issue_not_echo {m : Master} {r : Request} (hm : m ≠ .echo) (h : issue m r s = .next t) : t.echo = s.echo := by
  obtain ⟨t', ht', hc⟩ := issue_cases m r s
  obtain rfl : t = t' := by rw [h] at ht'; exact (Host.Outcome.next.inj ht')
  rcases hc with ⟨b, f, rfl⟩ | ⟨b, i, d, n, -, -, rfl⟩ | ⟨b, i, bk, bk', -, -, -, -, rfl⟩
  · simp [State.raise_echo, hm]
  · simp
  · simp

/-- Everything D30's turn can do: nothing, one of the steps with a transaction, or one of the steps that change its registers
alone. -/
theorem stepEcho_cases (h : stepEcho s = .next t) :
    t = s ∨
    s.echo.fault = none ∧
      ((s.echo.state = .idle ∧ s.echo.phase = .assert ∧
          ∃ u, s.writeTrigger true = .next u ∧
            (u.echo.fault.isSome = true ∧ t = u ∨
              u.echo.fault = none ∧
                t = { u with echo := { u.echo with tRise := none, tFall := none, tMark := u.clk, phase := .hold } })) ∨
        (s.echo.state = .idle ∧ s.echo.phase = .hold ∧ s.cfg.tTrigUs ≤ s.clk - s.echo.tMark ∧
          ∃ u, s.writeTrigger false = .next u ∧
            (u.echo.fault.isSome = true ∧ t = u ∨
              u.echo.fault = none ∧
                t = { u with
                      echo :=
                        { u.echo with prevEcho := false, tWait := u.clk, state := .waitRise, phase := .sample } })) ∨
        (∃ edge, s.echo.state = (if edge then .waitRise else .waitFall) ∧ s.echo.phase = .sample ∧
          s.echoExpired = false ∧
          ∃ u, s.readEcho = .next u ∧
            (u.echo.fault.isSome = true ∧ t = u ∨
              u.echo.fault = none ∧
                t = { u with
                      echo :=
                        { u.echo with
                          phase :=
                            if u.echo.prevEcho = !edge ∧ pinLevel u.bus.rdata u.cfg.echoBit = edge then .stamp
                            else u.echo.phase
                          prevEcho := pinLevel u.bus.rdata u.cfg.echoBit } })) ∨
        ((s.echo.state = .waitRise ∨ s.echo.state = .waitFall) ∧ s.echo.phase = .sample ∧ s.echoExpired = true ∧
          t = { s with
                echo :=
                  { s.echo with fault := some (.echoTimeout s.echo.state), state := .faulted, phase := .none } }) ∨
        (s.echo.state = .waitRise ∧ s.echo.phase = .stamp ∧
          t = { s with
                echo := { s.echo with tRise := some s.clk, tWait := s.clk, state := .waitFall, phase := .sample } }) ∨
        (s.echo.state = .waitFall ∧ s.echo.phase = .stamp ∧
          t = { s with echo := { s.echo with tFall := some s.clk, state := .complete, phase := .report } }) ∨
        (s.echo.state = .complete ∧ s.echo.phase = .report ∧
          ∃ r f, s.echo.tRise = some r ∧ s.echo.tFall = some f ∧ r ≤ f ∧ s.cfg.usPerCm ≠ 0 ∧
            t = { s with
                  echo :=
                    { s.echo with
                      elapsedUs := some (f - r)
                      distanceCm := some (distanceOf (f - r) s.cfg.usPerCm)
                      reports := s.echo.reports ++
                        [{ cycle := s.echo.cyclesDone, tRise := r, tFall := f, elapsedUs := f - r,
                           distanceCm := distanceOf (f - r) s.cfg.usPerCm }]
                      cyclesDone := s.echo.cyclesDone + 1
                      tMark := s.clk
                      phase := .gap } }) ∨
        (s.echo.state = .complete ∧ s.echo.phase = .gap ∧ s.cfg.tGapUs ≤ s.clk - s.echo.tMark ∧
          (t = { s with echo := { s.echo with state := .halted, phase := .none } } ∨
            t = { s with echo := { s.echo with state := .idle, phase := .assert } }))) := by
  unfold stepEcho at h
  split at h
  · exact .inl (Host.Outcome.next.inj h).symm
  next hf =>
  replace hf : s.echo.fault = none := by simpa using hf
  have same : ∀ {o : Host.Outcome State Fault Refusal}, o = .next s → o = .next t → t = s := by
    rintro o rfl h; exact (Host.Outcome.next.inj h).symm
  split at h
  · next h1 h2 => exact .inr ⟨hf, .inl ⟨h1, h2, afterTransaction_next h⟩⟩
  · next h1 h2 =>
    unfold echoHold at h
    split at h
    · exact .inl (same rfl h)
    · next hw => exact .inr ⟨hf, .inr (.inl ⟨h1, h2, by omega, afterTransaction_next h⟩)⟩
  · next h1 h2 =>
    unfold echoSampleRise at h
    split at h
    · next hx =>
      refine .inr ⟨hf, .inr (.inr (.inr (.inl ⟨.inl h1, h2, hx, ?_⟩)))⟩
      simpa [echoTimeout, hf] using (Host.Outcome.next.inj h).symm
    · next hx =>
      exact .inr ⟨hf, .inr (.inr (.inl ⟨true, by simp [h1], h2, by simpa using hx, afterTransaction_next h⟩))⟩
  · next h1 h2 =>
    exact .inr ⟨hf, .inr (.inr (.inr (.inr (.inl ⟨h1, h2, (Host.Outcome.next.inj h).symm⟩))))⟩
  · next h1 h2 =>
    unfold echoSampleFall at h
    split at h
    · next hx =>
      refine .inr ⟨hf, .inr (.inr (.inr (.inl ⟨.inr h1, h2, hx, ?_⟩)))⟩
      simpa [echoTimeout, hf] using (Host.Outcome.next.inj h).symm
    · next hx =>
      exact .inr ⟨hf, .inr (.inr (.inl ⟨false, by simp [h1], h2, by simpa using hx, afterTransaction_next h⟩))⟩
  · next h1 h2 =>
    exact .inr ⟨hf, .inr (.inr (.inr (.inr (.inr (.inl ⟨h1, h2, (Host.Outcome.next.inj h).symm⟩)))))⟩
  · next h1 h2 =>
    refine .inr ⟨hf, .inr (.inr (.inr (.inr (.inr (.inr (.inl ⟨h1, h2, ?_⟩))))))⟩
    unfold echoReport at h
    split at h
    · next r f hr hfl =>
      split_ifs at h with h3 h4
      exact ⟨r, f, hr, hfl, by omega, h4, (Host.Outcome.next.inj h).symm⟩
    · cases h
  · next h1 h2 =>
    unfold echoGap at h
    split_ifs at h with h3 h4
    · exact .inl (same rfl h)
    · exact .inr ⟨hf, .inr (.inr (.inr (.inr (.inr (.inr (.inr ⟨h1, h2, by omega,
        .inl (Host.Outcome.next.inj h).symm⟩))))))⟩
    · exact .inr ⟨hf, .inr (.inr (.inr (.inr (.inr (.inr (.inr ⟨h1, h2, by omega,
        .inr (Host.Outcome.next.inj h).symm⟩))))))⟩
  · exact .inl (same rfl h)

/-! All agents. -/

/-- Everything a turn can do. -/
theorem runEvent_cases {e : Event} (h : runEvent e s = .next t) :
    t = s ∨
    (∃ r, e = .sw ∧ s.sw.fault = none ∧ s.sw.prog[s.sw.k]? = some (.bus r) ∧ issue .sw r s = .next t) ∨
    (∃ r, e = .ext r ∧ s.cfg.externalWriters = true ∧ s.extFault = none ∧ issue .ext r s = .next t) ∨
    (∃ a, e = .sw ∧ s.sw.fault = none ∧ s.sw.prog[s.sw.k]? = some (.fetch a) ∧
      (t = (s.grant .sw).refuse (.fetch a) ∨ t = (s.grant .sw).raise (.range a))) ∨
    (e = .sw ∧ s.sw.fault = none ∧ s.sw.prog[s.sw.k]? = some .echoStart ∧
      (s.echo.state ≠ .off ∧ t = (s.grant .sw).refuse .startBusy ∨
        s.echo.state = .off ∧ s.cfg.echoWellFormed = true ∧
          t = { s with
                echo :=
                  { s.echo with
                    state := .idle, phase := .assert, cyclesDone := 0, reports := [], prevEcho := false, tRise := none,
                    tFall := none }
                sw := { s.sw with k := s.sw.k + 1 } })) ∨
    (∃ b p v bk, e = .env b p v ∧ s.banks[b]? = some bk ∧
      t = { s with
            banks := s.banks.set b (bk.envStep s.cfg.edgeBoth (fun i => Config.freeBit (s.draws + i)) p v)
            draws := s.draws + 8 }) ∨
    (∃ d, e = .clk d ∧ s.clkFault = none ∧
      (t = { s with clkFault := some .clkWrap, refused := true } ∨ t = { s with clk := s.clk + d })) ∨
    (e = .echo ∧ stepEcho s = .next t) := by
  cases e with
  | sw =>
    change stepSw s = _ at h
    unfold stepSw at h
    split at h
    · exact .inl (Host.Outcome.next.inj h).symm
    next hf =>
    replace hf : s.sw.fault = none := by simpa using hf
    split at h
    · exact .inl (Host.Outcome.next.inj h).symm
    · next r hr => exact .inr (.inl ⟨r, rfl, hf, hr, h⟩)
    · next a ha =>
      refine .inr (.inr (.inr (.inl ⟨a, rfl, hf, ha, ?_⟩)))
      unfold fetchAt at h
      split at h
      · exact .inl (Host.Outcome.next.inj h).symm
      · exact .inr (Host.Outcome.next.inj h).symm
    · next hs =>
      refine .inr (.inr (.inr (.inr (.inl ⟨rfl, hf, hs, ?_⟩))))
      unfold echoStart at h
      split_ifs at h with h1 h2
      · exact .inl ⟨h1, (Host.Outcome.next.inj h).symm⟩
      · exact .inr ⟨not_not.mp h1, by simpa using h2, (Host.Outcome.next.inj h).symm⟩
  | echo => exact .inr (.inr (.inr (.inr (.inr (.inr (.inr ⟨rfl, h⟩))))))
  | env b p v =>
    change stepEnv b p v s = _ at h
    unfold stepEnv at h
    split at h
    · exact .inl (Host.Outcome.next.inj h).symm
    · next bk hb =>
      exact .inr (.inr (.inr (.inr (.inr (.inl ⟨b, p, v, bk, rfl, hb, (Host.Outcome.next.inj h).symm⟩)))))
  | clk d =>
    change stepClk d s = _ at h
    unfold stepClk at h
    split_ifs at h with h1 h2
    · exact .inl (Host.Outcome.next.inj h).symm
    · simp only [Bool.or_eq_true, not_or] at h1
      exact .inr (.inr (.inr (.inr (.inr (.inr (.inl ⟨d, rfl, by simpa using h1.1,
        .inl (Host.Outcome.next.inj h).symm⟩))))))
    · simp only [Bool.or_eq_true, not_or] at h1
      exact .inr (.inr (.inr (.inr (.inr (.inr (.inl ⟨d, rfl, by simpa using h1.1,
        .inr (Host.Outcome.next.inj h).symm⟩))))))
  | ext r =>
    change stepExt r s = _ at h
    unfold stepExt at h
    split at h
    · next hw =>
      simp only [Bool.and_eq_true] at hw
      exact .inr (.inr (.inl ⟨r, rfl, hw.1, by simpa using hw.2, h⟩))
    · exact .inl (Host.Outcome.next.inj h).symm

end Sys2Proof.Machine
end

