-- ==== Sys2Proof/Tests/Slice0.lean ====
section
/-! SUPPORT. Small tests on concrete states: decoding, the checks, one step of each instruction and agent, and a witness for
the hypotheses of each statement. Expected results are those of spec/ (95_test_vectors.md where it gives the case). -/

namespace Sys2Proof.Tests

open Sys2Proof.Machine

/-! States to test on. -/

/-- Two banks at 0x1000 and 0x1100; D30 on ports 0 and 1 of bank 0; OPEN values chosen for the tests. -/
def cfgT : Config where
  bankBase := 0x1000
  bankStride := 0x100
  paddrWidth := 32
  pageSize := 0x1000
  edgeBoth := 0x00FFFFFF
  reservedRead := .asWritten
  implMask := 0x000000FF
  intLvlImplMask := 0x00FFFFFF
  csrReset := Csr.unknown
  pinMask := 0xFF
  trigBank := 0
  trigPort := 0
  trigMask := 0xFF
  echoBank := 0
  echoPort := 1
  echoBit := 5
  tTrigUs := 10
  tGapUs := 1000000
  usPerCm := 58
  nCycles := some 1
  echoTimeoutUs := none
  externalWriters := false
  clkWidth := none
  cnfGpioAll := 0x000000FF
  oeOutput := 0x000000FF
  oeInput := 0x00000000
  intEnbNone := 0x00000000
  intStaAck := 0x000000FF
  intClrAll := 0x00FFFFFF

/-- Status bits from a byte. -/
def staT (w : Byte) : Vector Tri 8 :=
  Vector.ofFn fun i : Pin => if w.getLsbD i then .hi else .lo

/-- Bank 0 of the test state: known slots on ports 0 and 1, `UNKNOWN` ones on ports 2 and 3. -/
def bankT : Bank where
  csr :=
    { cnf := #v[.word 0xFF, .word 0x0F, .unknown, .word 0xFF]
      oe := #v[.word 0xFF, .word 0xFF, .unknown, .word 0xFF]
      out := #v[.word 0x0F, .word 0xFF, .unknown, .unknown]
      intEnb := #v[.word 0x10, .word 0x00, .unknown, .word 0x00]
      intLvl := #v[.word 0x00FFFFFF, .unknown, .word 0x7, .unknown] }
  sta := #v[staT 0x25, staT 0x00, Vector.replicate 8 .unknown, staT 0xFF]
  ext := #v[0x00, 0x20, 0xDF, 0x0F]
  latPrev := #v[0x00, 0x20, 0xDF, 0x0F]

/-- Bank 1 of the test state, as at reset. -/
def bankR : Bank :=
  Bank.reset Csr.unknown #v[0x00, 0x00, 0xFF, 0x00]

/-- The state the tests start in. -/
def sT : State :=
  { State.resetWith cfgT [] 100 with banks := [bankT, bankR] }

/-- `sT` with `SW` about to perform `x`. -/
def swT (x : SwItem) : State :=
  { sT with sw := { Sw.reset with prog := [x] } }

/-- `sT` with another agent on the bus. -/
def masterT (m : Master) : State :=
  { sT with bus := { sT.bus with master := m } }

/-- `sT` with D30 in a control state, at clock `clk`. -/
def echoT (state : EchoState) (phase : EchoPhase) (prev : Bool) (clk : Nat) : State :=
  { sT with
    clk := clk
    echo :=
      { Echo.reset with
        state := state, phase := phase, prevEcho := prev, tMark := 100, tWait := 30, tRise := some 30,
        tFall := some 50 } }

/-- Whether the outcome is a next state with the property `p`. -/
def nextIs (o : Host.Outcome State Fault Refusal) (p : State → Bool) : Bool :=
  match o with
  | .next t => p t
  | .fault _ => false
  | .refused _ => false

/-- The bank of `t` at index `b`, or the test bank where there is none. -/
def bankOf (t : State) (b : Nat) : Bank :=
  t.banks[b]?.getD bankT

/-! Decoding: words written bit by bit from R90 and R94, fields SZ W REG PORT BO. -/

theorem test_decode_rd_cnf : decodeTd 0b1000000000#10 7 = .instr (.rdCnf 0) := by decide
theorem test_decode_rd_oe : decodeTd 0b1000010100#10 7 = .instr (.rdOe 1) := by decide
theorem test_decode_rd_out : decodeTd 0b1000101000#10 7 = .instr (.rdOut 2) := by decide
theorem test_decode_rd_in : decodeTd 0b1000111000#10 7 = .instr (.rdIn 2) := by decide
theorem test_decode_rd_int_sta : decodeTd 0b1001000100#10 7 = .instr (.rdIntSta 1) := by decide
theorem test_decode_rd_int_enb : decodeTd 0b1001011100#10 7 = .instr (.rdIntEnb 3) := by decide
theorem test_decode_rd_int_lvl : decodeTd 0b1001100100#10 7 = .instr (.rdIntLvl 1) := by decide
theorem test_decode_rd_int_clr : decodeTd 0b1001110000#10 7 = .instr (.rdIntClr 0) := by decide
theorem test_decode_wr_cnf : decodeTd 0b1010001000#10 0xFF = .instr (.wrCnf 2 0xFF) := by decide
theorem test_decode_wr_oe : decodeTd 0b1010010100#10 0xFF = .instr (.wrOe 1 0xFF) := by decide
theorem test_decode_wr_out : decodeTd 0b1010101100#10 0x80000001 = .instr (.wrOut 3 0x80000001) := by decide
theorem test_decode_wr_in : decodeTd 0b1010111100#10 0 = .instr (.wrIn 3 0) := by decide
theorem test_decode_wr_int_sta : decodeTd 0b1011001100#10 0xFF = .instr (.wrIntSta 3 0xFF) := by decide
theorem test_decode_wr_int_enb : decodeTd 0b1011011100#10 0 = .instr (.wrIntEnb 3 0) := by decide
theorem test_decode_wr_int_lvl : decodeTd 0b1011100100#10 9 = .instr (.wrIntLvl 1 9) := by decide
theorem test_decode_wr_int_clr : decodeTd 0b1011111100#10 0xFFFFFF = .instr (.wrIntClr 3 0xFFFFFF) := by decide

/-- 95_test_vectors.md, decoding: by address, with the recorded values of R220. -/
theorem test_decode_requests :
    decodeRequest cfgT 2 (.addr 0x1014 .b4 true 3) = .ok 0 (.wrOe 1 3) ∧
      decodeRequest cfgT 2 (.addr 0x113C .b4 true 3) = .ok 1 (.wrIn 3 3) ∧
      decodeRequest cfgT 2 (.addr 0x1032 .b4 false 0) = .fault (.align 0x1032) ∧
      decodeRequest cfgT 2 (.addr 0x1032 .b2 true 0) = .fault (.size 0x1032 .b2) ∧
      decodeRequest cfgT 2 (.addr 0x1000 .b8 false 0) = .fault (.size 0x1000 .b8) ∧
      decodeRequest cfgT 2 (.addr 0x1080 .b4 false 0) = .fault (.range 0x1080) ∧
      decodeRequest cfgT 2 (.addr 0xFFC .b4 true 0) = .fault (.range 0xFFC) := by
  decide

theorem test_decode_bytes :
    decodeBytes [0x94, 0x02, 0x44, 0x33, 0x22, 0x11, 0xAA] = .instr (.wrOe 1 0x11223344) [0xAA] ∧
      decodeBytes [0x38, 0x02, 0xAA] = .instr (.rdIn 2) [0xAA] ∧ decodeBytes [0x94, 0x02, 0x44] = .truncated ∧
      decodeBytes [0x94, 0x06] = .notADescriptor := by
  decide

theorem test_mapped_address : cfgT.mappedAddr 0x70000000 1 .inp 2 = 0x70000138 := by decide

/-! The checks: an ill-formed term for each. -/

theorem test_wf_port : Line.wellFormed 2 (.rd 0 "OUT".toList 4) = false := by decide
theorem test_wf_name : Line.wellFormed 2 (.rd 0 "OUTS".toList 0) = false := by decide
theorem test_wf_bank : Line.wellFormed 2 (.rd 2 "OUT".toList 0) = false := by decide
theorem test_wf_imm : Line.wellFormed 2 (.wr 0 "OUT".toList 0 0x100000000) = false := by decide
theorem test_wf_wr_others :
    Line.wellFormed 2 (.wr 2 "OUT".toList 0 0) = false ∧ Line.wellFormed 2 (.wr 0 "OUT".toList 4 0) = false ∧
      Line.wellFormed 2 (.wr 0 "".toList 0 0) = false ∧ Line.wellFormed 2 (.wr 1 "OUT".toList 3 0xFFFFFFFF) = true := by
  decide
theorem test_wf_bit : Line.wellFormed 2 (.pinGet 0 2 (some 8)) = false := by decide
theorem test_wf_dir : Line.wellFormed 2 (.pinDir 0 4 true) = false ∧ Line.wellFormed 2 (.pinDir 2 0 true) = false := by
  decide
theorem test_wf_noint : Line.wellFormed 2 (.pinNoint 0 4) = false ∧ Line.wellFormed 2 (.pinNoint 2 0) = false := by
  decide
theorem test_wf_edgecfg :
    Line.wellFormed 2 (.pinEdgecfg 0 4) = false ∧ Line.wellFormed 2 (.pinEdgecfg 2 0) = false := by
  decide
theorem test_wf_set :
    Line.wellFormed 2 (.pinSet 0 4 1 none) = false ∧ Line.wellFormed 2 (.pinSet 2 0 1 none) = false ∧
      Line.wellFormed 2 (.pinSet 0 0 2 none) = false ∧ Line.wellFormed 2 (.pinSet 0 0 1 (some 256)) = false := by
  decide
theorem test_wf_get : Line.wellFormed 2 (.pinGet 0 4 none) = false ∧ Line.wellFormed 2 (.pinGet 2 0 none) = false := by
  decide
/-- The last values that pass. -/
theorem test_wf_passes :
    Line.wellFormed 2 (.pinSet 1 3 1 (some 255)) = true ∧ Line.wellFormed 2 (.pinGet 1 3 (some 7)) = true ∧
      Line.wellFormed 2 (.pinGet 1 3 none) = true ∧ Line.wellFormed 2 (.rd 1 "INT_CLR".toList 3) = true := by
  decide
theorem test_wf_overlap : Config.placed { cfgT with bankStride := 0x7F } 2 = false := by decide
theorem test_wf_wrap : Config.placed { cfgT with paddrWidth := 12 } 2 = false := by decide
theorem test_wf_echo_same_port : Config.echoWellFormed { cfgT with echoPort := 0 } = false := by decide
theorem test_wf_echo_bit : Config.echoWellFormed { cfgT with echoBit := 8 } = false := by decide
theorem test_wf_echo_mask : Config.echoWellFormed { cfgT with trigMask := 0 } = false := by decide
theorem test_wf_echo_hold : Config.echoWellFormed { cfgT with tTrigUs := 0 } = false := by decide
theorem test_wf_echo_cm : Config.echoWellFormed { cfgT with usPerCm := 0 } = false := by decide

/-! The assembler (30_encoding.md R97 to R99). -/

theorem test_parse_wr :
    parseLine "WR  1.OE[2], 0xFF -- x".toList = some (.wr 1 "OE".toList 2 255) ∧ parseLine " -- c".toList = some .blank ∧
      parseLine "RD IN[1]".toList = some (.rd 0 "IN".toList 1) ∧ parseLine "RD IN[1".toList = none := by
  decide
theorem test_parse_pins :
    parseLine "PIN.DIR 2, IN".toList = some (.pinDir 0 2 false) ∧
      parseLine "PIN.SET 3, 1, 0x01".toList = some (.pinSet 0 3 1 (some 1)) ∧
      parseLine "PIN.GET 2".toList = some (.pinGet 0 2 none) ∧ parseLine "ECHO.START".toList = some .echoStart := by
  decide
theorem test_assemble_edgecfg :
    assemble cfgT 2 [.pinEdgecfg 0 2] =
      .items [.bus (.slot 0 0x2C8 0xFF), .bus (.slot 0 0x2E8 0x00FFFFFF), .bus (.slot 0 0x2F8 0x00FFFFFF)] := by
  decide
theorem test_assemble_set_get :
    assemble cfgT 2 [.pinSet 0 3 1 (some 1), .blank, .pinSet 0 3 0 none, .pinGet 0 1 none] =
      .items [.bus (.slot 0 0x2AC 1), .bus (.slot 0 0x2AC 0), .bus (.slot 0 0x234 0)] := by
  decide
theorem test_assemble_refuses : assemble cfgT 2 [.pinNoint 0 0, .pinDir 0 4 true] = .refusedLine 1 := by decide

/-! One step of each transaction. -/

theorem test_rd_cnf : nextIs (exec (.rdCnf 0) sT) (fun t => t.bus.rdata == 0xFF && t.sw.rdlog == [0xFF] && t.sw.k == 1) := by
  decide
theorem test_rd_oe : nextIs (exec (.rdOe 1) sT) (fun t => t.bus.rdata == 0xFF && t.draws == 1) := by decide
theorem test_rd_out : nextIs (exec (.rdOut 0) sT) (fun t => t.bus.rdata == 0x0F && bankOf t 0 == bankT) := by decide
theorem test_rd_int_enb : nextIs (exec (.rdIntEnb 0) sT) (fun t => t.bus.rdata == 0x10) := by decide
theorem test_rd_int_lvl : nextIs (exec (.rdIntLvl 2) sT) (fun t => t.bus.rdata == 7) := by decide
/-- 95_test_vectors.md, storage, `DRAW`: bits outside the mask are the drawn ones. -/
theorem test_read_draw_mode :
    readValue { cfgT with reservedRead := .draw } .out (.word 0xDEADBEEF) 0x12345678 = 0x123456EF ∧
      readValue { cfgT with reservedRead := .draw } .intLvl (.word 0x12345678) 0xFF000000 = 0xFF345678 ∧
      readValue cfgT .cnf .unknown 0xABCD = 0xABCD := by
  decide
theorem test_rd_in_echo : nextIs (exec (.rdIn 1) (masterT .echo)) (fun t => t.sw == sT.sw && t.draws == 1) := by decide
/-- 95_test_vectors.md, IN: 0x20 gives level 1 on bit 5 and 0xDF gives 0, whatever is drawn above. -/
theorem test_in_level :
    pinLevel (laneWord 0x20 0xFFFFFFFF) 5 = true ∧ pinLevel (laneWord 0xDF 0xFFFFFFFF) 5 = false ∧
      laneWord 0xE0 0xABCDEF99 = 0xABCDEFE0 := by
  decide
theorem test_rd_int_sta : nextIs (exec (.rdIntSta 0) sT) (fun t => bankOf t 0 == bankT && t.draws == 8) := by decide
theorem test_status_byte :
    statusByte (staT 0x25) (fun _ => true) = 0x25 ∧ statusByte (Vector.replicate 8 .unknown) (fun i => i == 5) = 0x20 := by
  decide
theorem test_rd_int_clr : nextIs (exec (.rdIntClr 3) sT) (fun t => (bankOf t 0).sta == bankT.sta && t.sw.k == 1) := by
  decide
theorem test_wr_cnf :
    nextIs (exec (.wrCnf 2 0xFFFFFFFF) sT) (fun t => (bankOf t 0).csr.cnf[2] == .word 0xFFFFFFFF && t.sw.k == 1) := by
  decide
theorem test_wr_cnf_sfio : nextIs (exec (.wrCnf 0 0xFE) sT) (fun t => (bankOf t 0).drive 0 0 == .sfio) := by decide
theorem test_wr_oe : nextIs (exec (.wrOe 0 0x01) sT) (fun t => (bankOf t 0).drive 0 1 == .highZ) := by decide
theorem test_wr_out : nextIs (exec (.wrOut 0 0xF0) sT) (fun t => (bankOf t 0).drive 0 4 == .driven true) := by decide
theorem test_wr_out_bank :
    nextIs (exec (.wrOut 2 0xDEADBEEF) (sT.select 1))
      (fun t => (bankOf t 1).csr.out[2] == .word 0xDEADBEEF && bankOf t 0 == bankT) := by
  decide
/-- 95_test_vectors.md, P5: code 4, the descriptor recorded, `k` unchanged. -/
theorem test_wr_in :
    nextIs (exec (.wrIn 0 0) sT) (fun t => t.sw.fault == some (.roWrite 0x2B0) && t.sw.k == 0 && t.banks == sT.banks) := by
  decide
theorem test_wr_int_sta : nextIs (exec (.wrIntSta 0 1) sT) (fun t => (bankOf t 0).sta[0] == staT 0x24) := by decide
theorem test_wr_int_sta_high :
    nextIs (exec (.wrIntSta 0 0xFFFFFF00) sT) (fun t => (bankOf t 0).sta[0] == staT 0x25) := by
  decide
theorem test_wr_int_clr : nextIs (exec (.wrIntClr 3 0x00FFFFFF) sT) (fun t => (bankOf t 0).sta[3] == staT 0) := by decide
theorem test_wr_int_clr_high :
    nextIs (exec (.wrIntClr 3 0x00FFFF00) sT) (fun t => (bankOf t 0).sta[3] == staT 0xFF) := by
  decide
/-- 95_test_vectors.md, `irq`: pin 5 pending and enabled asserts it; with 0 or 0x10 it is not asserted. -/
theorem test_wr_int_enb :
    nextIs (exec (.wrIntEnb 0 0x20) sT) (fun t => (bankOf t 0).irq == .hi) ∧
      nextIs (exec (.wrIntEnb 0 0x10) sT) (fun t => (bankOf t 0).irqPort 0 == .lo) := by
  decide
theorem test_wr_int_lvl : nextIs (exec (.wrIntLvl 1 9) sT) (fun t => (bankOf t 0).csr.intLvl[1] == .word 9) := by decide

/-- 95_test_vectors.md, storage: the drive rows. -/
theorem test_drive :
    bankT.drive 1 3 = .driven true ∧ bankT.drive 1 4 = .sfio ∧ bankT.drive 0 4 = .driven false ∧
      bankT.drive 3 0 = .unknown ∧ bankT.drive 2 0 = .unknown ∧ bankR.irq = .unknown := by
  decide

/-! One step of each other agent. -/

/-- 95_test_vectors.md, status: both edges latch under EDGE_BOTH, and no change is no event. -/
theorem test_latch :
    (bankT.envStep 0x00FFFFFF (fun _ => true) 0 0xF2).sta[0] = staT 0xF7 ∧
      (bankT.envStep 0x00FFFFFF (fun _ => true) 0 0x00).sta[0] = staT 0x25 ∧
      (bankT.envStep 0x00FFFFFF (fun i => i == 2) 1 0x20).sta[1] = staT 0x04 ∧
      (bankT.envStep 0x00FFFFFF (fun _ => true) 0 0xF2).latPrev[0] = 0xF2 := by
  decide
theorem test_env_absent_bank : nextIs (runEvent (.env 2 0 1) sT) (fun t => t == sT) := by decide +kernel
theorem test_clk_wrap :
    nextIs (runEvent (.clk 27) { sT with cfg := { cfgT with clkWidth := some 7 } }) (fun t => t.clk == 127) ∧
      nextIs (runEvent (.clk 28) { sT with cfg := { cfgT with clkWidth := some 7 } })
        (fun t => t.clk == 100 && t.clkFault == some .clkWrap && t.refused) := by
  decide
theorem test_ext_off : nextIs (runEvent (.ext (.addr 0x1000 .b4 true 1)) sT) (fun t => t == sT) := by decide +kernel
theorem test_ext_on :
    nextIs (runEvent (.ext (.addr 0x1131 .b4 true 1)) { sT with cfg := { cfgT with externalWriters := true } })
      (fun t => t.extFault == some (.align 0x1131) && t.sw.fault == none) := by
  decide
theorem test_fetch :
    nextIs (runEvent .sw (swT (.fetch 0x107F))) (fun t => t.sw.fault == some (.fetch 0x107F) && t.refused) ∧
      nextIs (runEvent .sw (swT (.fetch 0x1080))) (fun t => t.sw.fault == some (.range 0x1080) && !t.refused) := by
  decide
/-- 95_test_vectors.md, E1 to E3 and E25. -/
theorem test_start :
    nextIs (runEvent .sw (swT .echoStart)) (fun t => t.echo.state == .idle && t.echo.phase == .assert && t.sw.k == 1) ∧
      nextIs (runEvent .sw { swT .echoStart with echo := { Echo.reset with state := .halted } })
        (fun t => t.sw.fault == some .startBusy && t.refused && t.sw.k == 0) ∧
      runEvent .sw { swT .echoStart with cfg := { cfgT with echoPort := 0 } } = .refused .illFormedEcho := by
  refine ⟨by decide, by decide, by rfl⟩
theorem test_assert :
    nextIs (runEvent .echo (echoT .idle .assert false 1000))
      (fun t => (bankOf t 0).csr.out[0] == .word 0xFF && t.echo.tMark == 1000 && t.echo.phase == .hold &&
        t.echo.tRise == none) := by
  decide
/-- 95_test_vectors.md, E4 and E5. -/
theorem test_hold :
    nextIs (runEvent .echo (echoT .idle .hold true 109)) (fun t => t.echo.phase == .hold) ∧
      nextIs (runEvent .echo (echoT .idle .hold true 110))
        (fun t => (bankOf t 0).csr.out[0] == .word 0 && t.echo.state == .waitRise && t.echo.tWait == 110 &&
          !t.echo.prevEcho) := by
  decide
theorem test_stamps :
    nextIs (runEvent .echo (echoT .waitRise .stamp true 1030))
        (fun t => t.echo.tRise == some 1030 && t.echo.state == .waitFall && t.echo.phase == .sample) ∧
      nextIs (runEvent .echo (echoT .waitFall .stamp false 1050))
        (fun t => t.echo.tFall == some 1050 && t.echo.state == .complete && t.echo.phase == .report) := by
  decide
/-- R189's example: 20 us is 10/29 cm. -/
theorem test_report :
    nextIs (runEvent .echo (echoT .complete .report false 50))
      (fun t => t.echo.elapsedUs == some 20 && t.echo.distanceCm == some (10 / 29) && t.echo.cyclesDone == 1) := by
  decide +kernel
/-- 95_test_vectors.md, E22, E23 and E24 (with `t_mark` 100). -/
theorem test_gap :
    nextIs (runEvent .echo (echoT .complete .gap false 1000099)) (fun t => t.echo.phase == .gap) ∧
      nextIs (runEvent .echo (echoT .complete .gap false 1000100)) (fun t => t.echo.state == .idle) ∧
      nextIs (runEvent .echo { echoT .complete .gap false 1000100 with cfg := { cfgT with nCycles := some 0 } })
        (fun t => t.echo.state == .halted) := by
  decide
/-- 95_test_vectors.md, E18. -/
theorem test_timeout :
    nextIs (runEvent .echo { echoT .waitFall .sample true 131 with cfg := { cfgT with echoTimeoutUs := some 100 } })
      (fun t => t.echo.state == .faulted && t.echo.fault == some (.echoTimeout .waitFall) &&
        t.echo.tRise == some 30) := by
  decide
theorem test_first_step : ((State.reset.withFetchWord 16 0x294).sw.prog) = [.bus (.slot 0 0x294 0)] := by rfl

/-! Witnesses: for each statement with hypotheses, a state and operands that meet all of them together. -/

theorem witness_OpcodeMapDecodes : decodeTd 0x294 5 = .instr (.wrOe 1 5) ∧ 0x294#10 &&& 0x3F3#10 = 0x290 := by decide

theorem witness_EncodeThenDecode : 1 < 2 ∧ decodeRequest cfgT 2 (encode 1 (.wrOe 1 5)) = .ok 1 (.wrOe 1 5) := by decide

theorem witness_EveryDescriptorClassified :
    (0x1BE#10).extractLsb' 8 2 ≠ 0b10#2 ∧
      ((0x231#10).extractLsb' 8 2 = 0b10#2 ∧ (0x231#10).extractLsb' 0 2 ≠ 0b00#2) ∧
      (0x2FC#10).extractLsb' 8 2 = 0b10#2 ∧ (0x2FC#10).extractLsb' 0 2 = 0b00#2 ∧ (Instr.wrIntClr 3 1).isWrite = true := by
  decide

/-- Below, between and above the windows; the first and the last byte of one. -/
theorem witness_RequestFaultPriority :
    cfgT.placed 2 = true ∧
      (∀ a ∈ [0xFFF, 0x1080, 0x10FF, 0x1180], ∀ b, b < 2 →
        ¬(cfgT.bankBase + b * cfgT.bankStride ≤ a ∧ a < cfgT.bankBase + b * cfgT.bankStride + 0x80)) ∧
      (∀ a ∈ [0x1100, 0x117F], cfgT.bankBase + 1 * cfgT.bankStride ≤ a ∧ a < cfgT.bankBase + 1 * cfgT.bankStride + 0x80) ∧
      Size.b2 ≠ .b4 ∧ (0x117F - (cfgT.bankBase + 1 * cfgT.bankStride)) % 4 ≠ 0 ∧
      (0x1100 - (cfgT.bankBase + 1 * cfgT.bankStride)) % 4 = 0 := by
  decide

theorem witness_SlotsNeverAlias :
    cfgT.placed 2 = true ∧ 0 < 2 ∧ 1 < 2 ∧ ¬(0 = 0 ∧ Reg.cnf = Reg.cnf ∧ (3 : Port) = 0) ∧
      ¬(0 = 1 ∧ Reg.intClr = Reg.cnf ∧ (3 : Port) = 0) := by
  decide

theorem witness_AddressReachesItsSlot : cfgT.placed 2 = true ∧ 1 < 2 := by decide

theorem witness_ResultsGoToTheirIssuer :
    sT.bus.master = .sw ∧ (masterT .echo).bus.master ≠ .sw ∧ (masterT .ext).bus.master ≠ .sw := by
  decide

/-- The bank on the bus exists: the only hypothesis of the reads and writes of one transaction. -/
theorem witness_bank_present : sT.banks[sT.bus.bank]? = some bankT ∧ (sT.select 1).banks[(sT.select 1).bus.bank]? = some bankR :=
  ⟨rfl, rfl⟩

theorem witness_StorageReadsComplete : sT.banks[sT.bus.bank]? = some bankT := rfl
theorem witness_ReadInSeesPads : sT.banks[sT.bus.bank]? = some bankT := rfl
theorem witness_WriteInFaults : sT.banks[sT.bus.bank]? = some bankT := rfl
theorem witness_StatusWritesClearOnes : sT.banks[sT.bus.bank]? = some bankT := rfl
theorem witness_ReadClearReturnsDraw : sT.banks[sT.bus.bank]? = some bankT := rfl

theorem witness_WriteCnfSetsPinModes :
    sT.banks[sT.bus.bank]? = some bankT ∧ bankT.csr.oe[(0 : Port)] = .word 0xFF ∧ (0xFE : Word32).getLsbD 0 = false ∧
      (0xFE : Word32).getLsbD 7 = true ∧ (0xFF : Word32).getLsbD 7 = true ∧ bankT.csr.out[(0 : Port)] = .word 0x0F ∧
      ({ bankT with csr := { bankT.csr with oe := #v[.word 1, .unknown, .unknown, .unknown] } } : Bank).csr.oe[(0 : Port)] =
        .word 1 ∧ (1 : Word32).getLsbD 7 = false := by
  decide

theorem witness_WriteOeSetsDirections :
    sT.banks[sT.bus.bank]? = some bankT ∧ bankT.csr.cnf[(3 : Port)] = .word 0xFF ∧ (0xFF : Word32).getLsbD 7 = true ∧
      bankT.csr.out[(3 : Port)] = .unknown ∧ bankT.csr.cnf[(0 : Port)] = .word 0xFF ∧
      bankT.csr.out[(0 : Port)] = .word 0x0F ∧ (0x7F : Word32).getLsbD 7 = false := by
  decide

theorem witness_WriteOutSetsLevels :
    sT.banks[sT.bus.bank]? = some bankT ∧ bankT.csr.cnf[(1 : Port)] = .word 0x0F ∧ bankT.csr.oe[(1 : Port)] = .word 0xFF ∧
      ((0x0F : Word32).getLsbD 3 = true ∧ (0xFF : Word32).getLsbD 3 = true) ∧
      ¬((0x0F : Word32).getLsbD 4 = true ∧ (0xFF : Word32).getLsbD 4 = true) := by
  decide

theorem witness_WriteIntEnbGatesIrq :
    sT.banks[sT.bus.bank]? = some bankT ∧ (0xFFFFFF00 : Word32).extractLsb' 0 8 = 0#8 ∧
      (0x20 : Word32).getLsbD 5 = true ∧ (bankT.sta[(0 : Port)])[(5 : Pin)] = .hi := by
  decide

theorem witness_WriteIntLvlSetsMode :
    sT.banks[sT.bus.bank]? = some bankT ∧ (0x00FFFFFF : Word32) = sT.cfg.edgeBoth := by
  decide

theorem witness_ReadStatusReturnsLatches :
    sT.banks[sT.bus.bank]? = some bankT ∧ (bankT.sta[(0 : Port)])[(1 : Pin)] = .lo ∧
      (bankT.sta[(0 : Port)])[(0 : Pin)] = .hi ∧ (bankT.sta[(2 : Port)])[(7 : Pin)] = .unknown := by
  decide

theorem witness_ReadsChangeNoBank :
    (Instr.rdIntSta 0).isWrite = false ∧ nextIs (exec (.rdIntSta 0) sT) (fun _ => true) ∧ sT.bus.master ≠ .echo ∧
      (masterT .echo).bus.master ≠ .sw ∧ sT.banks[sT.bus.bank]? ≠ none := by
  decide

theorem witness_WritesTouchOnlyTheirSlot :
    (Instr.wrOe 3 5).isWrite = true ∧ nextIs (exec (.wrOe 3 5) sT) (fun _ => true) ∧ 1 ≠ sT.bus.bank ∧
      sT.banks[sT.bus.bank]? = some bankT ∧ StorageReg.cnf.reg ≠ (Instr.wrOe 3 5).reg ∧
      (2 : Port) ≠ (Instr.wrOe 3 5).port ∧ (Instr.wrOe 3 5).reg ≠ .inp ∧ (masterT .ext).bus.master ≠ .sw := by
  decide

theorem witness_FaultingRequestChangesNoBank :
    decodeRequest sT.cfg sT.banks.length (.addr 0x1032 .b2 true 0) = .fault (.size 0x1032 .b2) := by
  decide

theorem witness_BanksAreIndependent :
    decodeRequest sT.cfg sT.banks.length (.addr 0x1014 .b4 true 3) = .ok 0 (.wrOe 1 3) ∧
      nextIs (issue .sw (.addr 0x1014 .b4 true 3) sT) (fun _ => true) ∧ 1 ≠ 0 := by
  decide

theorem witness_WriteThenReadReturnsIt :
    sT.banks[sT.bus.bank]? = some bankT ∧ sT.cfg.reservedRead = .asWritten ∧ sT.bus.master = .sw := by
  decide

theorem witness_EqualWritesActOnce :
    (Instr.wrIntClr 0 5).isWrite = true ∧
      nextIs (exec (.wrIntClr 0 5) sT) (fun t => nextIs (exec (.wrIntClr 0 5) t) fun _ => true) := by
  decide

theorem witness_StepRunsDecodedInstruction :
    (State.withFetchWord sT 16 0x294).sched = [.sw] ∧ sT.sched = [] ∧
      decodeRequest sT.cfg sT.banks.length (.slot 0 0x294 9) = .ok 0 (.wrOe 1 9) ∧ (swT (.bus (.slot 0 0x294 9))).sw.fault = none ∧
      (swT (.bus (.slot 0 0x294 9))).sw.prog[(swT (.bus (.slot 0 0x294 9))).sw.k]? = some (.bus (.slot 0 0x294 9)) ∧
      ({ sT with cfg := { cfgT with externalWriters := true } } : State).extFault = none := by
  decide

theorem witness_StoppedAgentsStandStill :
    ({ sT with sw := { Sw.reset with fault := some .startBusy } } : State).sw.fault ≠ none ∧ sT.sw.prog.length ≤ sT.sw.k ∧
      sT.echo.state = .off ∧ (echoT .halted .none false 0).echo.state = .halted ∧
      (echoT .faulted .none false 0).echo.state = .faulted ∧ sT.cfg.externalWriters = false ∧
      ({ sT with clkFault := some .clkWrap } : State).clkFault ≠ none := by
  decide

theorem witness_FaultsAreSticky :
    nextIs (step { sT with sched := [.clk 1], sw := { Sw.reset with fault := some (.range 1) }, refused := true })
      (fun t => t.sw.fault == some (.range 1) && t.refused) := by
  decide

theorem witness_ClockNeverGoesBack :
    nextIs (step { sT with sched := [.clk 7] }) (fun t => t.clk == 107) ∧
      ∀ d, ({ sT with sched := [.echo] } : State).nextEvent.1 ≠ .clk d :=
  ⟨by decide, fun _ => by simp [State.nextEvent]⟩

theorem witness_ParametersNeverChange : nextIs (step { sT with sched := [.env 0 1 0] }) (fun t => t.banks.length == 2) := by
  decide

theorem witness_OnlyEnvMovesPads :
    ({ sT with sched := [.env 0 1 0x80] } : State).banks[0]? = some bankT ∧
      nextIs (step { sT with sched := [.env 0 1 0x80] }) (fun t => (bankOf t 0).ext == #v[0x00, 0x80, 0xDF, 0x0F]) ∧
      ({ sT with sched := [.env 0 1 0x80] } : State).nextEvent.1 = .env 0 1 0x80 ∧
      ∀ b p v, ({ sT with sched := [.echo] } : State).nextEvent.1 ≠ .env b p v :=
  ⟨by decide, by decide, by decide, fun _ _ _ => by simp [State.nextEvent]⟩

/-- A bit set by an `ENV` turn, and one cleared by a write of `SW`. -/
theorem witness_StatusBitWriters :
    nextIs (step { sT with sched := [.env 0 0 0x80] })
        (fun t => (bankOf t 0).sta[0][7] == .hi && bankT.sta[0][7] == .lo) ∧
      nextIs (step { swT (.bus (.slot 0 0x2C0 1)) with sched := [.sw] })
        (fun t => (bankOf t 0).sta[0][0] == .lo && bankT.sta[0][0] == .hi) := by
  decide

theorem witness_StorageSlotWriters :
    nextIs (step { swT (.bus (.slot 0 0x294 9)) with sched := [.sw] })
      (fun t => (bankOf t 0).csr.get .oe 1 == .word 9 && bankT.csr.get .oe 1 == .word 0xFF) := by
  decide

theorem witness_EnvStepLatches :
    sT.banks[0]? = some bankT ∧ bankT.csr.intLvl[(1 : Port)] = .unknown ∧
      bankT.csr.intLvl[(0 : Port)] = .word sT.cfg.edgeBoth ∧ bankT.csr.intLvl[(2 : Port)] = .word 7 ∧
      (7 : Word32) ≠ sT.cfg.edgeBoth := by
  decide

/-- The last clock value a 7-bit clock admits, and the first it does not. -/
theorem witness_ClockStepAdvancesOrRefuses :
    sT.clkFault = none ∧ 1 ≤ 27 ∧ sT.cfg.clkWidth = none ∧ ({ cfgT with clkWidth := some 7 } : Config).clkWidth = some 7 ∧
      sT.clk + 27 < 2 ^ 7 ∧ 2 ^ 7 ≤ sT.clk + 28 := by
  decide

theorem witness_FetchIsRefused :
    (swT (.fetch 0x107F)).sw.fault = none ∧ (swT (.fetch 0x107F)).sw.prog[(swT (.fetch 0x107F)).sw.k]? = some (.fetch 0x107F) ∧
      0 < (swT (.fetch 0x107F)).banks.length ∧ cfgT.bankBase + 0 * cfgT.bankStride ≤ 0x107F ∧
      0x107F < cfgT.bankBase + 0 * cfgT.bankStride + 0x80 ∧
      ∀ b, b < 2 → ¬(cfgT.bankBase + b * cfgT.bankStride ≤ 0x1080 ∧ 0x1080 < cfgT.bankBase + b * cfgT.bankStride + 0x80) := by
  decide

theorem witness_EchoStartOutcomes :
    (swT .echoStart).sw.fault = none ∧ (swT .echoStart).sw.prog[(swT .echoStart).sw.k]? = some .echoStart ∧
      (swT .echoStart).echo.state = .off ∧ (swT .echoStart).cfg.echoWellFormed = true ∧
      (echoT .waitRise .sample false 0).echo.state ≠ .off ∧ ({ cfgT with echoPort := 0 } : Config).echoWellFormed = false := by
  decide

theorem witness_AssertRaisesTrigger :
    (echoT .idle .assert false 5).echo.fault = none ∧ (echoT .idle .assert false 5).echo.state = .idle ∧
      (echoT .idle .assert false 5).echo.phase = .assert ∧ sT.banks[sT.cfg.trigBank]? = some bankT ∧
      ({ cfgT with trigBank := 2 } : Config).trigBank = 2 ∧ sT.banks[2]? = none := by
  decide

theorem witness_HoldEndsTrigger :
    (echoT .idle .hold false 109).echo.fault = none ∧ (echoT .idle .hold false 109).echo.state = .idle ∧
      (echoT .idle .hold false 109).echo.phase = .hold ∧
      (echoT .idle .hold false 109).clk - (echoT .idle .hold false 109).echo.tMark < cfgT.tTrigUs ∧
      cfgT.tTrigUs ≤ (echoT .idle .hold false 110).clk - (echoT .idle .hold false 110).echo.tMark ∧
      (echoT .idle .hold false 110).banks[cfgT.trigBank]? = some bankT ∧
      (echoT .idle .hold false 110).banks[({ cfgT with trigBank := 2 } : Config).trigBank]? = none := by
  decide

/-- At the last clock value at which a timeout of 100 has not expired. -/
theorem witness_SamplesDetectEdges :
    let s := { echoT .waitFall .sample true 130 with cfg := { cfgT with echoTimeoutUs := some 100 } }
    s.echo.fault = none ∧ s.echo.state = (if false then .waitRise else .waitFall) ∧ s.echo.phase = .sample ∧
      (∀ t, s.cfg.echoTimeoutUs = some t → s.clk - s.echo.tWait ≤ t) ∧ s.cfg.echoBit ≤ 7 ∧
      s.banks[s.cfg.echoBank]? = some bankT ∧ s.banks[({ s.cfg with echoBank := 2 } : Config).echoBank]? = none :=
  ⟨rfl, rfl, rfl, fun t h => by cases h; decide, by decide, rfl, rfl⟩

theorem witness_StampsRecordTheClock :
    (echoT .waitRise .stamp true 7).echo.fault = none ∧ (echoT .waitRise .stamp true 7).echo.phase = .stamp ∧
      (echoT .waitRise .stamp true 7).echo.state = .waitRise ∧ (echoT .waitFall .stamp false 7).echo.state = .waitFall := by
  decide

theorem witness_ReportComputesDistance :
    let s := echoT .complete .report false 50
    s.echo.fault = none ∧ s.echo.state = .complete ∧ s.echo.phase = .report ∧ s.echo.tRise = some 30 ∧
      s.echo.tFall = some 50 ∧ 30 ≤ 50 ∧ 1 ≤ s.cfg.usPerCm := by
  decide

theorem witness_GapEndsCycle :
    (echoT .complete .gap false 1000099).echo.fault = none ∧ (echoT .complete .gap false 1000099).echo.state = .complete ∧
      (echoT .complete .gap false 1000099).echo.phase = .gap ∧ 1000099 - 100 < cfgT.tGapUs ∧
      cfgT.tGapUs ≤ 1000100 - 100 ∧ ({ cfgT with nCycles := some 0 } : Config).nCycles = some 0 ∧
      0 ≤ (echoT .complete .gap false 1000100).echo.cyclesDone ∧
      cfgT.nCycles = some 1 ∧ (echoT .complete .gap false 1000100).echo.cyclesDone < 1 := by
  decide

/-- The first clock value at which a timeout of 100 has expired. -/
theorem witness_TimeoutStopsEcho :
    let s := { echoT .waitFall .sample true 131 with cfg := { cfgT with echoTimeoutUs := some 100 } }
    s.echo.fault = none ∧ s.echo.state = .waitFall ∧ s.echo.phase = .sample ∧ s.cfg.echoTimeoutUs = some 100 ∧
      100 < s.clk - s.echo.tWait := by
  decide

/-- D30 about to report its second cycle. -/
def invT : State :=
  { echoT .complete .report false 60 with
    sched := [.echo]
    echo :=
      { Echo.reset with
        state := .complete, phase := .report, tRise := some 30, tFall := some 50, elapsedUs := some 58,
        distanceCm := some (((58 : Nat) : Rat) / ((58 : Nat) : Rat)), cyclesDone := 1,
        reports := [{ cycle := 0, tRise := 0, tFall := 58, elapsedUs := 58,
                      distanceCm := ((58 : Nat) : Rat) / ((58 : Nat) : Rat) }] } }

theorem witness_EchoInvariantKept : EchoInv invT ∧ nextIs (step invT) (fun t => t.echo.cyclesDone == 2) := by
  refine ⟨?_, by decide +kernel⟩
  constructor <;> simp [invT, echoT, Echo.reset, Echo.legal, sT, State.resetWith, Report.consistent]
  · decide
  · rintro j r h
    rcases j with _ | j <;> simp at h
    subst h; rfl
  · norm_num [cfgT]

theorem witness_OnlyIllFormedStartStops :
    EchoInv { swT .echoStart with cfg := { cfgT with echoPort := 0 }, sched := [.sw] } ∧
      step { swT .echoStart with cfg := { cfgT with echoPort := 0 }, sched := [.sw] } = .refused .illFormedEcho := by
  refine ⟨?_, rfl⟩
  constructor <;> simp [swT, sT, State.resetWith, Echo.reset, Echo.legal]

theorem witness_LowEchoReportsNothing :
    let s := { echoT .waitRise .sample false 130 with
               sched := [.echo], banks := [{ bankT with ext := #v[0xFF, 0xDF, 0xFF, 0xFF] }] }
    NoEdgeYet s ∧ EchoLow s ∧ s.cfg.echoBit ≤ 7 ∧ nextIs (step s) (fun t => t.echo.state == .waitRise) := by
  refine ⟨by simp [NoEdgeYet, echoT, Echo.reset], ?_, by decide, by decide⟩
  intro bk h
  obtain rfl : _ = bk := Option.some.inj h
  decide

theorem witness_LatchMemoryFollowsPads :
    LatchInv { sT with sched := [.env 0 0 1] } ∧
      nextIs (step { sT with sched := [.env 0 0 1] }) (fun t => (bankOf t 0).latPrev[0] == 1) := by
  refine ⟨?_, by decide⟩
  intro bk h
  simp only [sT, List.mem_cons, List.not_mem_nil, or_false] at h
  rcases h with rfl | rfl <;> rfl

theorem witness_PadDriveFollowsRegisters :
    bankT.csr.cnf[(2 : Port)] = .unknown ∧ bankT.csr.cnf[(1 : Port)] = .word 0x0F ∧ bankT.csr.oe[(1 : Port)] = .word 0xFF ∧
      (0x0F : Word32).getLsbD 4 = false ∧ (0x0F : Word32).getLsbD 3 = true ∧ (0xFF : Word32).getLsbD 3 = true ∧
      (0x0F : Word32).getLsbD 7 = false ∧ bankT.csr.out[(3 : Port)] = .unknown ∧ bankT.csr.out[(1 : Port)] = .word 0xFF := by
  decide

theorem witness_IrqIsOrOfEnabledPending :
    ∀ p : Port, ∃ w : Word32,
      ({ bankT with csr := { bankT.csr with intEnb := Vector.replicate 4 (.word 0xFFFFFF00) } } : Bank).csr.intEnb[p] =
        .word w ∧ w.extractLsb' 0 8 = 0#8 :=
  fun p => ⟨0xFFFFFF00, by simp, by decide⟩

theorem witness_ResetState : ∃ bk, State.reset.banks[0]? = some bk :=
  ⟨_, rfl⟩

theorem witness_PinDirSetsDirection :
    sT.banks[1]? = some bankR ∧ sT.cfg.cnfGpioAll = 0x000000FF ∧ sT.cfg.oeOutput = 0x000000FF ∧
      sT.cfg.oeInput = 0x00000000 ∧ (Line.pinDir 0 4 true).wellFormed 2 = false := by
  decide

theorem witness_PinNointDisablesPort :
    sT.banks[0]? = some bankT ∧ sT.cfg.intEnbNone = 0x00000000 ∧ sT.cfg.reservedRead = .asWritten ∧
      (Line.pinNoint 0 4).wellFormed 2 = false := by
  decide

theorem witness_PinEdgecfgArmsLatch :
    sT.banks[0]? = some bankT ∧ sT.cfg.intStaAck = 0x000000FF ∧ sT.cfg.intClrAll = 0x00FFFFFF ∧
      (0x21 : Byte).getLsbD (0 : Pin) ≠ (bankT.ext[(1 : Port)]).getLsbD (0 : Pin) := by
  decide

theorem witness_PinSetAndGetExpand :
    sT.banks[sT.bus.bank]? = some bankT ∧ sT.cfg.echoBit ≤ 7 ∧ (∀ j, some 7 = some j → j ≤ 7) ∧
      ∀ j, (none : Option Nat) = some j → j ≤ 7 :=
  ⟨rfl, by decide, fun j h => by cases h; decide, fun j h => by cases h⟩

theorem witness_AssemblerRefusesWholeProgram :
    (∀ l ∈ [Line.pinNoint 0 0], l.wellFormed 2 = true) ∧ (Line.pinDir 0 4 true).wellFormed 2 = false ∧
      assemble sT.cfg sT.banks.length [.pinNoint 0 0, .pinDir 0 4 true] = .refusedLine 1 ∧ sT.sw.fault = none := by
  decide

theorem witness_LaunchNeedsMapping :
    sT.sw.fault = none ∧
      assemble sT.cfg sT.banks.length [.echoStart, .pinGet 0 1 none] = .items [.echoStart, .bus (.slot 0 0x234 0)] := by
  decide

end Sys2Proof.Tests
end

section
/-! The opcode map (30_encoding.md R94): the descriptor of an instruction is its row's match word with the port in bits 3:2,
and decoding inverts encoding in both directions. -/

namespace Sys2Proof

open Laws.TdMatch (matchWord)

/-- The match word of a row holds `SZ`, `W` and `REG`; its port and byte bits are 0. -/
theorem matchWord_fields (i : Instr) :
    matchWord i = 0b10#2 ++ BitVec.ofBool i.isWrite ++ i.reg.index ++ 0b0000#4 := by
  cases i <;> simp [matchWord, Instr.isWrite, Instr.reg, Reg.index]

/-- Filling the `PORT` field is an OR with the port shifted into bits 3:2. -/
theorem packed_eq_or_port : ∀ (w : Bool) (r : BitVec 3) (p : Port),
    0b10#2 ++ BitVec.ofBool w ++ r ++ BitVec.ofNat 2 p.val ++ 0b00#2 =
      (0b10#2 ++ BitVec.ofBool w ++ r ++ 0b0000#4) ||| (BitVec.ofNat 10 p.val <<< 2) := by
  decide

/-- R94: the descriptor of a slot is `match | (p << 2)`. -/
theorem encodeTd_eq_matchWord_or_port (i : Instr) :
    encodeTd i = matchWord i ||| (BitVec.ofNat 10 i.port.val <<< 2) := by
  rw [matchWord_fields]
  exact packed_eq_or_port i.isWrite i.reg.index i.port

theorem decodeTd_encodeTd_opcode (w : Bool) (r : Reg) (p : Port) (d : Word32) :
    decodeTd (encodeTd (opcode w r p d)) d = .instr (opcode w r p d) := by
  rw [decodeTd_instr _ d (tdSize_encode _) (tdByte_encode _)]
  simp

theorem decodeTd_matchWord_or_port (w : Bool) (r : Reg) (p : Port) (d : Word32) :
    decodeTd (matchWord (opcode w r p d) ||| (BitVec.ofNat 10 p.val <<< 2)) d = .instr (opcode w r p d) := by
  have h := encodeTd_eq_matchWord_or_port (opcode w r p d)
  rw [opcode_port] at h
  rw [← h, decodeTd_encodeTd_opcode]

/-- Only the descriptor an instruction encodes to decodes to it. -/
theorem encodeTd_of_decodeTd_eq_instr {td : BitVec 10} {d : Word32} {i : Instr} (h : decodeTd td d = .instr i) :
    encodeTd i = td := by
  by_cases hsize : tdSize td = 0b10
  · by_cases hbyte : tdByte td = 0b00
    · rw [decodeTd_instr td d hsize hbyte] at h
      cases h
      simpa [encodeTd] using packed_of_fields td hsize hbyte
    · rw [decodeTd_align td d hsize hbyte] at h
      cases h
  · rw [decodeTd_size td d hsize] at h
    cases h

/-- Settles O1: each row is the decoding of its own match word, and a decodable descriptor is the encoding of what it
decodes to, so the two agree under every mask. -/
theorem opcodeMapDecodes : Obligations.OpcodeMapDecodes := by
  refine ⟨fun p d => ?_, fun td d i h => by rw [encodeTd_of_decodeTd_eq_instr h]⟩
  have row (w : Bool) (r : Reg) := decodeTd_matchWord_or_port w r p d
  exact ⟨row false .cnf, row false .oe, row false .out, row false .inp,
    row false .intSta, row false .intEnb, row false .intLvl, row false .intClr,
    row true .cnf, row true .oe, row true .out, row true .inp,
    row true .intSta, row true .intEnb, row true .intLvl, row true .intClr⟩

end Sys2Proof
end

section
/-! The register writes (40_csr_access.md R113, R115, R117, R123): what a write to a storage register answers, and what the
pad drive (R36) and `irq` (R37) make of the stored words. -/

namespace Sys2Proof.Machine

/-! A write to a storage register. -/

/-- On a bank that exists, a storage write sets its slot and completes (R111). -/
theorem State.writeStorage_some {s : State} {bk : Bank} (r : StorageReg) (p : Port) (d : Word32)
    (h : s.banks[s.bus.bank]? = some bk) :
    s.writeStorage r p d = .next (s.setBank { bk with csr := bk.csr.set r p (.word d) }).retire :=
  State.access_some r.reg p _ h

/-! The drive of a pin, one rule for each branch of R36 in which CNF and OE are known. -/

section Drive

variable {bk : Bank} {p : Port} {i : Pin} {c e o : Word32}

theorem Bank.drive_eq_sfio (hcnf : bk.csr.cnf[p] = .word c) (hoe : bk.csr.oe[p] = .word e)
    (hc : c.getLsbD i = false) : bk.drive p i = .sfio := by
  simp [Bank.drive, hcnf, hoe, hc]

theorem Bank.drive_eq_highZ (hcnf : bk.csr.cnf[p] = .word c) (hoe : bk.csr.oe[p] = .word e)
    (hc : c.getLsbD i = true) (he : e.getLsbD i = false) : bk.drive p i = .highZ := by
  simp [Bank.drive, hcnf, hoe, hc, he]

theorem Bank.drive_eq_driven (hcnf : bk.csr.cnf[p] = .word c) (hoe : bk.csr.oe[p] = .word e)
    (hc : c.getLsbD i = true) (he : e.getLsbD i = true) (hout : bk.csr.out[p] = .word o) :
    bk.drive p i = .driven (o.getLsbD i) := by
  simp [Bank.drive, hcnf, hoe, hc, he, hout]

theorem Bank.drive_eq_unknown_of_out (hcnf : bk.csr.cnf[p] = .word c) (hoe : bk.csr.oe[p] = .word e)
    (hc : c.getLsbD i = true) (he : e.getLsbD i = true) (hout : bk.csr.out[p] = .unknown) :
    bk.drive p i = .unknown := by
  simp [Bank.drive, hcnf, hoe, hc, he, hout]

/-- `OUT` is stored but drives nothing on a pin that is not a GPIO output (R117). -/
theorem Bank.drive_eq_of_not_output {bk' : Bank} (hcnf : bk.csr.cnf[p] = .word c) (hoe : bk.csr.oe[p] = .word e)
    (hcnf' : bk'.csr.cnf[p] = .word c) (hoe' : bk'.csr.oe[p] = .word e)
    (h : ¬(c.getLsbD i = true ∧ e.getLsbD i = true)) : bk'.drive p i = bk.drive p i := by
  cases hc : c.getLsbD i with
  | false => rw [Bank.drive_eq_sfio hcnf hoe hc, Bank.drive_eq_sfio hcnf' hoe' hc]
  | true =>
    have he : e.getLsbD i = false := by simpa [hc] using h
    rw [Bank.drive_eq_highZ hcnf hoe hc he, Bank.drive_eq_highZ hcnf' hoe' hc he]

end Drive

/-! The terms, the ports and the whole of `irq`, each definitely 1 or definitely 0 (R37). -/

section Irq

variable {bk : Bank} {p : Port} {i : Pin}

/-- A pin asserts `irq` exactly when it is pending and enabled. -/
theorem Bank.irqTerm_eq_hi :
    bk.irqTerm p i = .hi ↔ (bk.sta[p])[i] = .hi ∧ ∃ w, bk.csr.intEnb[p] = .word w ∧ w.getLsbD i = true := by
  rw [Bank.irqTerm, triAnd_eq_hi, slotBit_eq_hi]

/-- A pin is definitely silent exactly when it is not pending or not enabled. -/
theorem Bank.irqTerm_eq_lo :
    bk.irqTerm p i = .lo ↔ (bk.sta[p])[i] = .lo ∨ ∃ w, bk.csr.intEnb[p] = .word w ∧ w.getLsbD i = false := by
  rw [Bank.irqTerm, triAnd_eq_lo, slotBit_eq_lo]

theorem Bank.irqPort_eq_hi : bk.irqPort p = .hi ↔ ∃ i, bk.irqTerm p i = .hi := by
  simp [Bank.irqPort, foldl_triOr_eq_hi]

theorem Bank.irqPort_eq_lo : bk.irqPort p = .lo ↔ ∀ i, bk.irqTerm p i = .lo := by
  simp [Bank.irqPort, foldl_triOr_eq_lo]

theorem Bank.irq_eq_hi : bk.irq = .hi ↔ ∃ p, bk.irqPort p = .hi := by
  simp [Bank.irq, foldl_triOr_eq_hi]

/-- The pin lanes of a word are the bits of its low byte. -/
theorem lane_eq_false_of_low_byte_zero {w : Word32} (h : w.extractLsb' 0 8 = 0#8) (i : Pin) : w.getLsbD i = false := by
  have hbit : (w.extractLsb' 0 8).getLsbD i = false := by rw [h]; exact BitVec.getLsbD_zero
  simpa using hbit

/-- A port whose enable word has a zero low byte asserts nothing, whatever its status bits hold (R123). -/
theorem Bank.irqPort_eq_lo_of_low_byte_zero {w : Word32} (henb : bk.csr.intEnb[p] = .word w)
    (h : w.extractLsb' 0 8 = 0#8) : bk.irqPort p = .lo :=
  Bank.irqPort_eq_lo.mpr fun i => Bank.irqTerm_eq_lo.mpr (.inr ⟨w, henb, lane_eq_false_of_low_byte_zero h i⟩)

/-- One pending and enabled pin makes its port, and with it the bank, assert `irq` (R123). -/
theorem Bank.irq_eq_hi_of_pending_enabled {w : Word32} (henb : bk.csr.intEnb[p] = .word w) (hw : w.getLsbD i = true)
    (hsta : (bk.sta[p])[i] = .hi) : bk.irqPort p = .hi ∧ bk.irq = .hi := by
  have hport : bk.irqPort p = .hi := Bank.irqPort_eq_hi.mpr ⟨i, Bank.irqTerm_eq_hi.mpr ⟨hsta, w, henb, hw⟩⟩
  exact ⟨hport, Bank.irq_eq_hi.mpr ⟨p, hport⟩⟩

end Irq

/-! The four writes. -/

/-- Settles O10: the drive of each pin is R36's with the new word of CNF. -/
theorem writeCnfSetsPinModes : Obligations.WriteCnfSetsPinModes := by
  intro s p d bk hbank
  have hcnf : (bk.csr.set .cnf p (.word d)).cnf[p] = .word d := Csr.get_set_same bk.csr .cnf p (.word d)
  refine ⟨encodeTd_eq_matchWord_or_port (.wrCnf p d), _, rfl, State.writeStorage_some .cnf p d hbank, hcnf,
    fun i e hoe => ⟨fun hd => ?_, fun hd he => ?_, fun hd he o hout => ?_⟩⟩
  · exact Bank.drive_eq_sfio hcnf hoe hd
  · exact Bank.drive_eq_highZ hcnf hoe hd he
  · exact Bank.drive_eq_driven hcnf hoe hd he hout

/-- Settles O11: the drive of each GPIO pin is R36's with the new word of OE. -/
theorem writeOeSetsDirections : Obligations.WriteOeSetsDirections := by
  intro s p d bk hbank
  have hoe : (bk.csr.set .oe p (.word d)).oe[p] = .word d := Csr.get_set_same bk.csr .oe p (.word d)
  refine ⟨encodeTd_eq_matchWord_or_port (.wrOe p d), _, rfl, State.writeStorage_some .oe p d hbank, hoe,
    fun i c hcnf hc => ⟨fun hd => ?_, fun hd hout => ?_, fun hd o hout => ?_⟩⟩
  · exact Bank.drive_eq_highZ hcnf hoe hc hd
  · exact Bank.drive_eq_unknown_of_out hcnf hoe hc hd hout
  · exact Bank.drive_eq_driven hcnf hoe hc hd hout

/-- Settles O12: a GPIO output, now or after later writes of CNF and OE, drives the stored word; any other pin's drive does
not read OUT. -/
theorem writeOutSetsLevels : Obligations.WriteOutSetsLevels := by
  intro s p d bk hbank
  have hout : (bk.csr.set .out p (.word d)).out[p] = .word d := Csr.get_set_same bk.csr .out p (.word d)
  refine ⟨encodeTd_eq_matchWord_or_port (.wrOut p d), _, rfl, State.writeStorage_some .out p d hbank, hout, rfl,
    fun i c e hcnf hoe => ⟨fun hc he => ?_, fun h => ?_⟩, fun i c e hc he => ?_⟩
  · exact Bank.drive_eq_driven hcnf hoe hc he hout
  · exact Bank.drive_eq_of_not_output hcnf hoe hcnf hoe h
  · exact Bank.drive_eq_driven (Csr.get_set_same bk.csr .cnf p (.word c)) (Csr.get_set_same bk.csr .oe p (.word e))
      hc he hout

/-- Settles O13: the lanes of the new word are the enable operands of the port's terms in `irq`. -/
theorem writeIntEnbGatesIrq : Obligations.WriteIntEnbGatesIrq := by
  intro s p d bk hbank
  have henb : (bk.csr.set .intEnb p (.word d)).intEnb[p] = .word d := Csr.get_set_same bk.csr .intEnb p (.word d)
  refine ⟨encodeTd_eq_matchWord_or_port (.wrIntEnb p d), _, rfl, State.writeStorage_some .intEnb p d hbank, henb,
    fun hzero => ?_, fun i hd hsta => ?_⟩
  · exact Bank.irqPort_eq_lo_of_low_byte_zero henb hzero
  · exact Bank.irq_eq_hi_of_pending_enabled henb hd hsta

end Sys2Proof.Machine
end

section
/-! The pin sequences (41_pin_sequences.md R141): what the request for a storage write does to the machine, and the two
writes of `PIN.DIR`. -/

namespace Sys2Proof

/-- R94: decoding inverts encoding. -/
@[simp] theorem decodeTd_encodeTd (i : Instr) : decodeTd (encodeTd i) i.data = .instr i := by
  rw [decodeTd_instr _ _ (tdSize_encode i) (tdByte_encode i)]
  simp [opcode_fields i i.data fun _ => rfl]

/-- R91: an encoded request reaches the instruction it encodes on every bank that exists. -/
theorem decodeRequest_encode (cfg : Config) {n b : Nat} (i : Instr) (hb : b < n) :
    decodeRequest cfg n (encode b i) = .ok b i := by
  simp [decodeRequest, encode, decodeInBank, hb]

end Sys2Proof

namespace Sys2Proof.Machine

@[simp] theorem portOf_val (p : Port) : portOf p.val = p := by
  simp [portOf]

/-- An encoded request on a bank that exists runs its instruction there. -/
theorem issue_encode {s : State} {b : Nat} (m : Master) (i : Instr) (hb : b < s.banks.length) :
    issue m (encode b i) s = exec i ((s.grant m).select b) := by
  simp [issue, decodeRequest_encode s.cfg i hb]

theorem exec_opcode_storage_write (r : StorageReg) (p : Port) (d : Word32) (s : State) :
    exec (opcode true r.reg p d) s = s.writeStorage r p d := by
  cases r <;> rfl

/-- A storage write on a bank that exists completes with no fault of any agent, and of the banks it changes the slot it
names alone (R111). -/
theorem issue_storage_write {s : State} {b : Nat} {bk : Bank} (m : Master) (r : StorageReg) (p : Port) (d : Word32)
    (h : s.banks[b]? = some bk) :
    ∃ t, issue m (encode b (opcode true r.reg p d)) s = .next t ∧
      t.banks = s.banks.set b { bk with csr := bk.csr.set r p (.word d) } ∧
      t.sw.fault = s.sw.fault ∧ t.echo = s.echo ∧ t.extFault = s.extFault := by
  have hb : b < s.banks.length := (List.getElem?_eq_some_iff.mp h).1
  rw [issue_encode m _ hb, exec_opcode_storage_write]
  exact ⟨_, State.writeStorage_some r p d h, by simp⟩

/-- Settles O54: both items are storage writes, and the write of OE finds the bank as the write of CNF left it. -/
theorem pinDirSetsDirection : Obligations.PinDirSetsDirection := by
  refine ⟨fun n b q toOut hq => by simp [Line.wellFormed, hq], fun s b p toOut bk hbank hcnf hout hin => ?_⟩
  refine ⟨_, rfl, by simp [itemsOf, itemOf, hcnf, hout, hin], fun m => ?_⟩
  obtain ⟨t, ht, htbanks, htsw, htecho, htext⟩ := issue_storage_write m .cnf p 0x000000FF hbank
  have hb : b < s.banks.length := (List.getElem?_eq_some_iff.mp hbank).1
  have hbank₁ : t.banks[b]? = some { bk with csr := bk.csr.set .cnf p (.word 0x000000FF) } := by
    rw [htbanks, List.getElem?_set_self hb]
  obtain ⟨u, hu, hubanks, husw, huecho, huext⟩ := issue_storage_write m .oe p _ hbank₁
  rw [htbanks, List.set_set] at hubanks
  exact ⟨t, u, ht, hu, ⟨_, htbanks, rfl⟩, ⟨_, hubanks, rfl⟩, husw.trans htsw, huecho.trans htecho, huext.trans htext⟩

end Sys2Proof.Machine
end

section
/-! D30's `COMPLETE / REPORT` (43_echo_timer.md R189, R193): the step it dispatches to, the report of ordered timestamps, and
the distance as the quotient of the rational difference. -/

namespace Sys2Proof.Machine

variable {s : State}

/-- R181: with no fault recorded, `COMPLETE / REPORT` is the report step. -/
theorem stepEcho_complete_report (hfault : s.echo.fault = none) (hstate : s.echo.state = .complete)
    (hphase : s.echo.phase = .report) : stepEcho s = echoReport s := by
  simp [stepEcho, hfault, hstate, hphase]

/-- R189: both timestamps set and in order, and a divisor that is not zero, leave none of the report's faults. -/
theorem echoReport_of_ordered {r f : Nat} (hrise : s.echo.tRise = some r) (hfall : s.echo.tFall = some f) (hle : r ≤ f)
    (hdiv : s.cfg.usPerCm ≠ 0) :
    echoReport s =
      .next
        { s with
          echo :=
            { s.echo with
              elapsedUs := some (f - r)
              distanceCm := some (distanceOf (f - r) s.cfg.usPerCm)
              reports := s.echo.reports ++
                [{ cycle := s.echo.cyclesDone, tRise := r, tFall := f, elapsedUs := f - r,
                   distanceCm := distanceOf (f - r) s.cfg.usPerCm }]
              cyclesDone := s.echo.cyclesDone + 1
              tMark := s.clk
              phase := .gap } } := by
  simp [echoReport, hrise, hfall, Nat.not_lt.mpr hle, hdiv]

/-- R193: the natural subtraction of the elapsed time loses nothing when the timestamps are in order. -/
theorem distanceOf_sub {r f : Nat} (hle : r ≤ f) (usPerCm : Nat) :
    distanceOf (f - r) usPerCm = ((f : Rat) - (r : Rat)) / (usPerCm : Rat) := by
  rw [distanceOf, Nat.cast_sub hle]

/-- Settles O43: the step is the report of ordered timestamps, with its distance read as the quotient of their rational
difference. -/
theorem reportComputesDistance : Obligations.ReportComputesDistance := by
  intro s r f hfault hstate hphase hrise hfall hle hdiv
  calc runEvent .echo s
    _ = stepEcho s := rfl
    _ = echoReport s := stepEcho_complete_report hfault hstate hphase
    _ = _ := by rw [echoReport_of_ordered hrise hfall hle (Nat.ne_of_gt hdiv), distanceOf_sub hle]

end Sys2Proof.Machine
end

section
/-! Decoding (30_encoding.md sections 1 to 3): the byte form of the model (log 7), the classes of descriptors, and the
words the test vectors write out. -/

namespace Sys2Proof

/-! The bytes of an instruction. -/

/-- Bits 15:10 of the two descriptor bytes are zero. -/
theorem highByte_reserved_bits (td : BitVec 10) : ((td.extractLsb' 8 2).setWidth 8).extractLsb' 2 6 = 0#6 := by
  ext k hk
  simp

/-- The two descriptor bytes hold the descriptor, low byte first. -/
theorem descriptor_of_bytes (td : BitVec 10) :
    ((td.extractLsb' 8 2).setWidth 8).extractLsb' 0 2 ++ td.extractLsb' 0 8 = td := by
  have hhigh : ((td.extractLsb' 8 2).setWidth 8).extractLsb' 0 2 = td.extractLsb' 8 2 := by
    rw [← BitVec.setWidth_eq_extractLsb' (by decide), BitVec.setWidth_setWidth_of_le _ (by decide), BitVec.setWidth_eq]
  rw [hhigh]
  exact BitVec.extractLsb'_append_extractLsb'

/-- R69: a word is its four bytes, the first the lowest. -/
theorem wordOfBytes_wordByte (d : Word32) :
    wordOfBytes (wordByte d 0) (wordByte d 1) (wordByte d 2) (wordByte d 3) = d := by
  have h1 : wordByte d 3 ++ wordByte d 2 = d.extractLsb' 16 16 :=
    BitVec.extractLsb'_append_extractLsb'_eq_extractLsb' rfl
  have h2 : d.extractLsb' 16 16 ++ wordByte d 1 = d.extractLsb' 8 24 :=
    BitVec.extractLsb'_append_extractLsb'_eq_extractLsb' rfl
  have h3 : d.extractLsb' 8 24 ++ wordByte d 0 = d :=
    BitVec.extractLsb'_append_extractLsb'
  calc wordOfBytes (wordByte d 0) (wordByte d 1) (wordByte d 2) (wordByte d 3)
    _ = wordByte d 3 ++ wordByte d 2 ++ wordByte d 1 ++ wordByte d 0 := rfl
    _ = d := by rw [h1, h2, h3]

/-- The opcode of a read is the read, whatever data word stands beside it. -/
theorem decodeTd_encodeTd_read {i : Instr} (hread : i.isWrite = false) (d : Word32) :
    decodeTd (encodeTd i) d = .instr i := by
  have hi : opcode i.isWrite i.reg i.port d = i := opcode_fields i d (by simp [hread])
  rw [decodeTd_instr _ _ (tdSize_encode i) (tdByte_encode i)]
  simp [hi]

/-- The byte form of an instruction decodes to it, whatever follows it: the two bytes are its descriptor, and a
write's data word is read from the next four. -/
theorem decodeBytes_encodeBytes (i : Instr) (rest : List Byte) :
    decodeBytes (encodeBytes i ++ rest) = .instr i rest := by
  cases hw : i.isWrite with
  | false =>
    simp [encodeBytes, decodeBytes, highByte_reserved_bits, descriptor_of_bytes, decodeTd_encodeTd_read, hw]
  | true =>
    have hi : opcode true i.reg i.port i.data = i := by
      simpa [hw] using opcode_fields i i.data fun _ => rfl
    simp [encodeBytes, decodeBytes, highByte_reserved_bits, descriptor_of_bytes, wordOfBytes_wordByte, hw, hi]

/-- Settles O3: a request through its descriptor, the byte form through its bytes. -/
theorem encodeThenDecode : Obligations.EncodeThenDecode :=
  ⟨fun cfg _ _ i hb => decodeRequest_encode cfg i hb, decodeBytes_encodeBytes⟩

/-! Descriptors. -/

/-- Settles O4: the three classes are the branches of R91's checks, and a descriptor that passes both is the encoding
of what it decodes to. -/
theorem everyDescriptorClassified : Obligations.EveryDescriptorClassified := by
  refine fun td d => ⟨decodeTd_size td d, decodeTd_align td d, fun hsize hbyte => ?_⟩
  have hdec := decodeTd_instr td d hsize hbyte
  refine ⟨_, hdec, encodeTd_of_decodeTd_eq_instr hdec, fun hw => ?_⟩
  rw [opcode_isWrite] at hw
  rw [hw, opcode_data]

/-- Settles O2: six evaluations of the decoder. -/
theorem specWordsDecode : Obligations.SpecWordsDecode := by
  unfold Obligations.SpecWordsDecode
  decide

end Sys2Proof
end

section
/-! D30's invariant (43_echo_timer.md R181, R195, R198): what each step of D30 makes of it, and that every turn keeps
it. -/

namespace Sys2Proof.Machine

variable {s t u : State}

/-! The updates of D30's registers, one for each way a step changes them. -/

/-- The invariant reads D30's registers, the parameters and the clock, which may only have advanced. -/
theorem EchoInv.of_echo_eq (h : EchoInv s) (hecho : t.echo = s.echo) (hcfg : t.cfg = s.cfg) (hclk : s.clk ≤ t.clk) :
    EchoInv t where
  legal := hecho ▸ h.legal
  faulted_iff := hecho ▸ h.faulted_iff
  configured := hecho ▸ hcfg ▸ h.configured
  unstarted := hecho ▸ h.unstarted
  counted := hecho ▸ h.counted
  numbered := hecho ▸ h.numbered
  consistent := hecho ▸ hcfg ▸ h.consistent
  lastElapsed := hecho ▸ h.lastElapsed
  lastDistance := hecho ▸ h.lastDistance
  unset := hecho ▸ h.unset
  risen := fun hs =>
    have ⟨hfall, r, hrise, hle⟩ := h.risen (hecho ▸ hs)
    ⟨hecho ▸ hfall, r, hecho ▸ hrise, hle.trans hclk⟩
  fallen := hecho ▸ h.fallen
  level := hecho ▸ h.level
  marks := hecho ▸ ⟨h.marks.1.trans hclk, h.marks.2.trans hclk⟩

/-- A fault stops D30 and keeps what it has reported (R197). -/
theorem EchoInv.faulted (h : EchoInv s) (hoff : s.echo.state ≠ .off) (f : FaultRec) :
    EchoInv { s with echo := { s.echo with fault := some f, state := .faulted, phase := .none } } :=
  { h with
    legal := rfl
    faulted_iff := by simp
    configured := fun _ => h.configured hoff
    unstarted := by simp
    unset := by simp
    risen := by simp
    fallen := by simp
    level := by simp }

/-- `ECHO.START` (R182). D30 has reported nothing, so that no last result is there to outlive the cleared reports. -/
theorem EchoInv.started (h : EchoInv s) (hoff : s.echo.state = .off) (hwf : s.cfg.echoWellFormed = true) (k : Nat) :
    EchoInv
      { s with
        echo :=
          { s.echo with
            state := .idle, phase := .assert, cyclesDone := 0, reports := [], prevEcho := false, tRise := none,
            tFall := none }
        sw := { s.sw with k := k } } :=
  { h with
    legal := rfl
    faulted_iff := by simpa [hoff] using h.faulted_iff
    configured := fun _ => hwf
    unstarted := by simp
    counted := rfl
    numbered := by simp
    consistent := by simp
    lastElapsed := by simpa [h.unstarted hoff] using h.lastElapsed
    lastDistance := by simpa [h.unstarted hoff] using h.lastDistance
    unset := by simp
    risen := by simp
    fallen := by simp
    level := by simp }

/-- `ASSERT` to `HOLD` (R183). -/
theorem EchoInv.held (h : EchoInv s) (hstate : s.echo.state = .idle) :
    EchoInv { s with echo := { s.echo with tRise := none, tFall := none, tMark := s.clk, phase := .hold } } :=
  { h with
    legal := by simp [Echo.legal, hstate]
    unset := by simp
    risen := by simp [hstate]
    fallen := by simp
    level := by simp
    marks := ⟨le_rfl, h.marks.2⟩ }

/-- `HOLD` to `WAIT_RISE` (R184). -/
theorem EchoInv.lowered (h : EchoInv s) (hstate : s.echo.state = .idle) (hphase : s.echo.phase = .hold) :
    EchoInv
      { s with echo := { s.echo with prevEcho := false, tWait := s.clk, state := .waitRise, phase := .sample } } :=
  { h with
    legal := rfl
    faulted_iff := by simpa [hstate] using h.faulted_iff
    configured := fun _ => h.configured (by simp [hstate])
    unstarted := by simp
    unset := fun _ => h.unset (.inl hphase)
    risen := by simp
    fallen := by simp
    level := by simp
    marks := ⟨h.marks.1, le_rfl⟩ }

/-- A sample goes to `STAMP` exactly when it sees the level waited for, for it never saw that level before (R185,
R187). -/
theorem EchoInv.sampled (h : EchoInv s) (edge level : Bool)
    (hstate : s.echo.state = if edge then .waitRise else .waitFall) (hphase : s.echo.phase = .sample) :
    EchoInv
      { s with
        echo :=
          { s.echo with
            phase := if s.echo.prevEcho = !edge ∧ level = edge then .stamp else s.echo.phase
            prevEcho := level } } := by
  obtain ⟨hrise, -, hfall, -⟩ := h.level
  have hprev : s.echo.prevEcho = !edge := by
    cases edge
    · exact hfall ⟨hstate, hphase⟩
    · exact hrise ⟨hstate, hphase⟩
  exact
    { h with
      legal := by cases edge <;> cases level <;> simp [Echo.legal, hstate, hphase, hprev]
      unset := fun hs => h.unset (by cases edge <;> cases level <;> simp_all)
      fallen := by cases edge <;> cases level <;> simp [hphase, hprev]
      level := by cases edge <;> cases level <;> simp [hstate, hphase, hprev] }

/-- The rising edge is stamped (R186). -/
theorem EchoInv.stampedRise (h : EchoInv s) (hstate : s.echo.state = .waitRise) (hphase : s.echo.phase = .stamp) :
    EchoInv
      { s with echo := { s.echo with tRise := some s.clk, tWait := s.clk, state := .waitFall, phase := .sample } } :=
  have ⟨_, hfall⟩ := h.unset (.inr hstate)
  have ⟨_, hprev, _⟩ := h.level
  { h with
    legal := rfl
    faulted_iff := by simpa [hstate] using h.faulted_iff
    configured := fun _ => h.configured (by simp [hstate])
    unstarted := by simp
    unset := by simp
    risen := fun _ => ⟨hfall, s.clk, rfl, le_rfl⟩
    fallen := by simp
    level := by simpa using hprev ⟨hstate, hphase⟩
    marks := ⟨h.marks.1, le_rfl⟩ }

/-- The falling edge is stamped, no earlier than the rising one (R188). -/
theorem EchoInv.stampedFall (h : EchoInv s) (hstate : s.echo.state = .waitFall) :
    EchoInv { s with echo := { s.echo with tFall := some s.clk, state := .complete, phase := .report } } :=
  have ⟨_, r, hrise, hle⟩ := h.risen hstate
  { h with
    legal := rfl
    faulted_iff := by simpa [hstate] using h.faulted_iff
    configured := fun _ => h.configured (by simp [hstate])
    unstarted := by simp
    unset := by simp
    risen := by simp
    fallen := fun _ => ⟨r, s.clk, hrise, rfl, hle⟩
    level := by simp }

/-- The report appends the record of the cycle, which becomes the last one (R189, R196). -/
theorem EchoInv.reported (h : EchoInv s) (hstate : s.echo.state = .complete) {r f : Nat} (hle : r ≤ f) :
    EchoInv
      { s with
        echo :=
          { s.echo with
            elapsedUs := some (f - r)
            distanceCm := some (distanceOf (f - r) s.cfg.usPerCm)
            reports := s.echo.reports ++
              [{ cycle := s.echo.cyclesDone, tRise := r, tFall := f, elapsedUs := f - r,
                 distanceCm := distanceOf (f - r) s.cfg.usPerCm }]
            cyclesDone := s.echo.cyclesDone + 1
            tMark := s.clk
            phase := .gap } } :=
  { h with
    legal := by simp [Echo.legal, hstate]
    unstarted := by simp [hstate]
    counted := by simp [h.counted]
    numbered := fun j x hx => by
      rcases Nat.lt_trichotomy j s.echo.reports.length with hj | rfl | hj
      · exact h.numbered j x (by rwa [List.getElem?_append_left hj] at hx)
      · obtain rfl : _ = x := by simpa using hx
        exact h.counted.symm
      · simp [List.getElem?_append_right hj.le, Nat.sub_ne_zero_of_lt hj] at hx
    consistent := fun x hx => by
      rcases List.mem_append.mp hx with hx | hx
      · exact h.consistent x hx
      · obtain rfl := List.mem_singleton.mp hx
        exact ⟨hle, rfl, rfl⟩
    lastElapsed := by simp
    lastDistance := by simp
    unset := by simp [hstate]
    fallen := by simp
    level := by simp
    marks := ⟨le_rfl, h.marks.2⟩ }

/-- The gap ends in `HALTED` or in the next cycle (R190). -/
theorem EchoInv.gapEnded (h : EchoInv s) (hstate : s.echo.state = .complete) {st : EchoState} {ph : EchoPhase}
    (hnext : st = .halted ∧ ph = .none ∨ st = .idle ∧ ph = .assert) :
    EchoInv { s with echo := { s.echo with state := st, phase := ph } } := by
  rcases hnext with ⟨rfl, rfl⟩ | ⟨rfl, rfl⟩
  all_goals exact
    { h with
      legal := rfl
      faulted_iff := by simpa [hstate] using h.faulted_iff
      configured := fun _ => h.configured (by simp [hstate])
      unstarted := by simp
      unset := by simp
      risen := by simp
      fallen := by simp
      level := by simp }

/-! Turns. -/

/-- A request of D30 keeps the invariant, and where it does not fault it leaves D30's registers to the rest of the
step. -/
theorem EchoInv.requested {r : Request} (h : EchoInv s) (hoff : s.echo.state ≠ .off) (hfault : s.echo.fault = none)
    (hu : issue .echo r s = .next u) : EchoInv u ∧ (u.echo.fault = none → u.echo = s.echo) := by
  obtain ⟨hcfg, hclk, -⟩ := issue_frame hu
  obtain ⟨-, -, hecho | ⟨f, -, hecho⟩⟩ := issue_echo hu
  · exact ⟨h.of_echo_eq hecho hcfg hclk.ge, fun _ => hecho⟩
  · rw [hfault, recordFault_none] at hecho
    exact ⟨(h.faulted hoff f).of_echo_eq hecho hcfg hclk.ge, fun hnone => by simp [hecho] at hnone⟩

/-- D30's turn keeps the invariant: each of its steps is one of the updates above. -/
theorem EchoInv.of_stepEcho (h : EchoInv s) (ht : stepEcho s = .next t) : EchoInv t := by
  rcases stepEcho_cases ht with rfl | ⟨hfault, hassert | hhold | hsample | htimeout | hstamp | hstamp | hreport | hgap⟩
  · exact h
  · obtain ⟨hstate, -, u, hu, hend⟩ := hassert
    obtain ⟨hinv, hecho⟩ := h.requested (by simp [hstate]) hfault hu
    rcases hend with ⟨-, rfl⟩ | ⟨hnone, rfl⟩
    · exact hinv
    · exact hinv.held (by rw [hecho hnone, hstate])
  · obtain ⟨hstate, hphase, -, u, hu, hend⟩ := hhold
    obtain ⟨hinv, hecho⟩ := h.requested (by simp [hstate]) hfault hu
    rcases hend with ⟨-, rfl⟩ | ⟨hnone, rfl⟩
    · exact hinv
    · exact hinv.lowered (by rw [hecho hnone, hstate]) (by rw [hecho hnone, hphase])
  · obtain ⟨edge, hstate, hphase, -, u, hu, hend⟩ := hsample
    obtain ⟨hinv, hecho⟩ := h.requested (by cases edge <;> simp [hstate]) hfault hu
    rcases hend with ⟨-, rfl⟩ | ⟨hnone, rfl⟩
    · exact hinv
    · exact hinv.sampled edge _ (by rw [hecho hnone, hstate]) (by rw [hecho hnone, hphase])
  · obtain ⟨hstate, -, -, rfl⟩ := htimeout
    exact h.faulted (by rcases hstate with hstate | hstate <;> simp [hstate]) _
  · obtain ⟨hstate, hphase, rfl⟩ := hstamp
    exact h.stampedRise hstate hphase
  · obtain ⟨hstate, -, rfl⟩ := hstamp
    exact h.stampedFall hstate
  · obtain ⟨hstate, -, r, f, -, -, hle, -, rfl⟩ := hreport
    exact h.reported hstate hle
  · obtain ⟨hstate, -, -, rfl | rfl⟩ := hgap
    · exact h.gapEnded hstate (.inl ⟨rfl, rfl⟩)
    · exact h.gapEnded hstate (.inr ⟨rfl, rfl⟩)

/-- Every turn keeps the invariant: D30's own, `ECHO.START`, and the turns that leave D30's registers as they are. -/
theorem EchoInv.of_runEvent {e : Event} (h : EchoInv s) (ht : runEvent e s = .next t) : EchoInv t := by
  rcases runEvent_cases ht with rfl | hsw | hext | hfetch | hstart | henv | hclk | hecho
  · exact h
  · obtain ⟨r, -, -, -, ht⟩ := hsw
    obtain ⟨hcfg, hclk, -⟩ := issue_frame ht
    exact h.of_echo_eq (issue_not_echo (by simp) ht) hcfg hclk.ge
  · obtain ⟨r, -, -, -, ht⟩ := hext
    obtain ⟨hcfg, hclk, -⟩ := issue_frame ht
    exact h.of_echo_eq (issue_not_echo (by simp) ht) hcfg hclk.ge
  · obtain ⟨a, -, -, -, rfl | rfl⟩ := hfetch
    all_goals exact h.of_echo_eq (by simp [State.raise_echo]) (by simp) (by simp)
  · obtain ⟨-, -, -, ⟨-, rfl⟩ | ⟨hoff, hwf, rfl⟩⟩ := hstart
    · exact h.of_echo_eq (by simp [State.raise_echo]) (by simp) (by simp)
    · exact h.started hoff hwf _
  · obtain ⟨b, p, v, bk, -, -, rfl⟩ := henv
    exact h.of_echo_eq rfl rfl le_rfl
  · obtain ⟨d, -, -, rfl | rfl⟩ := hclk
    · exact h.of_echo_eq rfl rfl le_rfl
    · exact h.of_echo_eq rfl rfl (Nat.le_add_right _ _)
  · exact h.of_stepEcho hecho.2

theorem EchoInv.of_nextEvent (h : EchoInv s) : EchoInv s.nextEvent.2 :=
  h.of_echo_eq (by simp) (by simp) (by simp)

/-- Settles O46: taking the next turn off the schedule touches nothing the invariant reads, and the turn keeps it. -/
theorem echoInvariantKept : Obligations.EchoInvariantKept :=
  fun _ _ h ht => h.of_nextEvent.of_runEvent ht

/-- Settles O47: at reset D30 is `OFF`, with no timestamp, no report and both marks at 0. -/
theorem echoInvariantAtReset : Obligations.EchoInvariantAtReset := by
  constructor <;> simp [State.reset, State.resetWith, Echo.reset, Echo.legal]

end Sys2Proof.Machine
end

section
/-! The address map (20_memory.md sections 1 and 4; 30_encoding.md section 1; 40_csr_access.md section 10): slots do
not overlap, an address selects at most one bank, and a request in a window becomes the descriptor of its offset. -/

namespace Sys2Proof

/-! Slots. -/

theorem Reg.index_injective : Function.Injective Reg.index :=
  Function.LeftInverse.injective Reg.ofIndex_index

/-- The slots of one bank do not overlap: each is a row of 16 bytes and a column of 4. -/
theorem slotOffset_sep {r r' : Reg} {p p' : Port} (h : ¬(r = r' ∧ p = p')) :
    slotOffset r p + 4 ≤ slotOffset r' p' ∨ slotOffset r' p' + 4 ≤ slotOffset r p := by
  have hne : r.index.toNat ≠ r'.index.toNat ∨ p.val ≠ p'.val := by
    rw [← not_and_or]
    exact fun ⟨hr, hp⟩ => h ⟨Reg.index_injective (BitVec.eq_of_toNat_eq hr), Fin.ext hp⟩
  simp only [slotOffset]
  omega

/-- The slots of a bank lie before those of every later bank. -/
theorem Config.slotAddr_sep {cfg : Config} {n b b' : Nat} (hplaced : cfg.placed n = true) (hb' : b' < n) (hlt : b < b')
    (r r' : Reg) (p p' : Port) : cfg.slotAddr b r p + 4 ≤ cfg.slotAddr b' r' p' := by
  have hsep := Config.baseOf_sep hplaced hb' hlt
  have hslot := slotOffset_lt r p
  simp only [Config.slotAddr]
  omega

/-- Settles O6: slots of one bank are apart by their offsets, slots of two banks by their windows. -/
theorem slotsNeverAlias : Obligations.SlotsNeverAlias := by
  intro cfg n b b' r r' p p' hplaced hb hb' hne
  rcases Nat.lt_trichotomy b b' with hlt | rfl | hlt
  · exact .inl (Config.slotAddr_sep hplaced hb' hlt r r' p p')
  · have hsep := slotOffset_sep fun h => hne ⟨rfl, h⟩
    simp only [Config.slotAddr]
    omega
  · exact .inr (Config.slotAddr_sep hplaced hb hlt r' r p' p)

/-- Every aligned offset of a window is the offset of a slot. -/
theorem exists_slotOffset_eq {off : Nat} (hoff : off < bankSize) (halign : off % 4 = 0) :
    ∃ r p, off = slotOffset r p := by
  refine ⟨Reg.ofIndex (BitVec.ofNat 3 (off / 16)), ⟨off / 4 % 4, Nat.mod_lt _ (by decide)⟩, ?_⟩
  simp only [slotOffset, Reg.index_ofIndex, BitVec.toNat_ofNat, bankSize] at hoff ⊢
  omega

/-! The bank an address selects (R91). -/

theorem Config.inWindow_iff {cfg : Config} {a b : Nat} :
    cfg.inWindow a b = true ↔ cfg.baseOf b ≤ a ∧ a < cfg.baseOf b + bankSize := by
  simp [Config.inWindow]

theorem Config.findBank_eq_none {cfg : Config} {n a : Nat}
    (h : ∀ b, b < n → ¬(cfg.baseOf b ≤ a ∧ a < cfg.baseOf b + bankSize)) : cfg.findBank n a = none := by
  refine List.find?_eq_none.mpr fun b hb => ?_
  rw [Config.inWindow_iff]
  exact h b (List.mem_range.mp hb)

/-- On well-placed windows an address is in one window at most. -/
theorem Config.findBank_eq_some {cfg : Config} {n a b : Nat} (hplaced : cfg.placed n = true) (hb : b < n)
    (hlow : cfg.baseOf b ≤ a) (hhigh : a < cfg.baseOf b + bankSize) : cfg.findBank n a = some b := by
  refine List.find?_range_eq_some.mpr ⟨Config.inWindow_iff.mpr ⟨hlow, hhigh⟩, List.mem_range.mpr hb, fun j hj => ?_⟩
  have hsep := Config.baseOf_sep hplaced hb hj
  rw [Bool.not_eq_true', ← Bool.not_eq_true, Config.inWindow_iff]
  omega

/-! The descriptor of an offset (R91). -/

theorem Size.ofBits_bits (size : Size) : Size.ofBits size.bits = size := by
  cases size <;> rfl

theorem Size.bits_eq_iff {size : Size} : size.bits = 0b10 ↔ size = .b4 := by
  cases size <;> decide

@[simp] theorem tdSize_tdOf (size : Size) (write : Bool) (off : Nat) : tdSize (tdOf size write off) = size.bits := by
  rw [tdSize, tdOf, BitVec.extractLsb'_append_eq_of_le (by decide), BitVec.extractLsb'_append_eq_left]

theorem tdOffset_tdOf (size : Size) (write : Bool) {off : Nat} (hoff : off < bankSize) :
    tdOffset (tdOf size write off) = off := by
  rw [tdOffset, tdOf, BitVec.extractLsb'_append_eq_right, BitVec.toNat_ofNat]
  exact Nat.mod_eq_of_lt hoff

theorem tdByte_tdOf (size : Size) (write : Bool) (off : Nat) :
    (tdByte (tdOf size write off)).toNat = off % 4 := by
  rw [tdByte, tdOf, BitVec.extractLsb'_append_eq_of_add_le (by decide)]
  simp

/-- The offset of a slot gives the descriptor of its instruction. -/
theorem tdOf_slotOffset (write : Bool) (r : Reg) (p : Port) (d : Word32) :
    tdOf .b4 write (slotOffset r p) = encodeTd (opcode write r p d) := by
  rw [encodeTd, opcode_isWrite, opcode_reg, opcode_port]
  revert write p
  cases r <;> decide

/-! Requests by address. -/

section Window

variable {cfg : Config} {n a b : Nat} {size : Size} {write : Bool} {d : Word32}

theorem decodeRequest_addr (hplaced : cfg.placed n = true) (hb : b < n) (hlow : cfg.baseOf b ≤ a)
    (hhigh : a < cfg.baseOf b + bankSize) :
    decodeRequest cfg n (.addr a size write d) = decodeInBank cfg b (tdOf size write (a - cfg.baseOf b)) d := by
  simp [decodeRequest, Config.findBank_eq_some hplaced hb hlow hhigh]

theorem decodeInBank_size (hlow : cfg.baseOf b ≤ a) (hhigh : a < cfg.baseOf b + bankSize) (hsize : size ≠ .b4) :
    decodeInBank cfg b (tdOf size write (a - cfg.baseOf b)) d = .fault (.size a size) := by
  have hbits : tdSize (tdOf size write (a - cfg.baseOf b)) ≠ 0b10 := by
    rwa [tdSize_tdOf, Ne, Size.bits_eq_iff]
  have hoff : cfg.baseOf b + (a - cfg.baseOf b) = a := by omega
  simp only [decodeInBank, decodeTd_size _ d hbits]
  rw [tdOffset_tdOf size write (by omega), tdSize_tdOf, Size.ofBits_bits, hoff]

theorem decodeInBank_align (hlow : cfg.baseOf b ≤ a) (hhigh : a < cfg.baseOf b + bankSize)
    (halign : (a - cfg.baseOf b) % 4 ≠ 0) :
    decodeInBank cfg b (tdOf .b4 write (a - cfg.baseOf b)) d = .fault (.align a) := by
  have hbyte : tdByte (tdOf .b4 write (a - cfg.baseOf b)) ≠ 0b00 := fun h =>
    halign (by rw [← tdByte_tdOf .b4 write, h]; rfl)
  have hoff : cfg.baseOf b + (a - cfg.baseOf b) = a := by omega
  simp only [decodeInBank, decodeTd_align _ d (tdSize_tdOf .b4 write _) hbyte]
  rw [tdOffset_tdOf .b4 write (by omega), hoff]

/-- The descriptor of an opcode reaches it, whatever the data word of a read. -/
theorem decodeInBank_opcode (cfg : Config) (b : Nat) (write : Bool) (r : Reg) (p : Port) (d : Word32) :
    decodeInBank cfg b (encodeTd (opcode write r p d)) d = .ok b (opcode write r p d) := by
  simp [decodeInBank, decodeTd_encodeTd_opcode]

/-- R61: the 4-byte request at the address of a slot is the access to it. -/
theorem decodeRequest_slotAddr (hplaced : cfg.placed n = true) (hb : b < n) (r : Reg) (p : Port) :
    decodeRequest cfg n (.addr (cfg.slotAddr b r p) .b4 write d) = .ok b (opcode write r p d) := by
  have hlow : cfg.baseOf b ≤ cfg.slotAddr b r p := Nat.le_add_right _ _
  have hhigh : cfg.slotAddr b r p < cfg.baseOf b + bankSize := by
    have hslot := slotOffset_lt r p
    simp only [Config.slotAddr]
    omega
  have hoff : cfg.slotAddr b r p - cfg.baseOf b = slotOffset r p := Nat.add_sub_cancel_left _ _
  rw [decodeRequest_addr hplaced hb hlow hhigh, hoff, tdOf_slotOffset write r p d, decodeInBank_opcode]

end Window

/-- Settles O5: outside every window no bank is found; in one, the request is its descriptor's, whose two checks come
in R91's order, and an aligned offset is a slot's. -/
theorem requestFaultPriority : Obligations.RequestFaultPriority := by
  intro cfg n a size write d hplaced
  refine ⟨fun hout => ?_, fun b hb hlow hhigh => ⟨fun hsize => ?_, ?_, ?_⟩⟩
  · simp [decodeRequest, Config.findBank_eq_none hout]
  · rw [decodeRequest_addr hplaced hb hlow hhigh]
    exact decodeInBank_size hlow hhigh hsize
  · rintro rfl halign
    rw [decodeRequest_addr hplaced hb hlow hhigh]
    exact decodeInBank_align hlow hhigh halign
  · rintro rfl halign
    obtain ⟨r, p, hoff⟩ := exists_slotOffset_eq (Nat.sub_lt_left_of_lt_add hlow hhigh) halign
    have ha : a = cfg.slotAddr b r p := by rw [Config.slotAddr, ← hoff]; exact (Nat.add_sub_of_le hlow).symm
    exact ⟨r, p, ha, by rw [ha]; exact decodeRequest_slotAddr hplaced hb r p⟩

/-- Settles O7: by address through the window it falls in, by descriptor directly. -/
theorem addressReachesItsSlot : Obligations.AddressReachesItsSlot := by
  intro cfg n b r p write d hplaced hb
  refine ⟨?_, ?_⟩
  · rw [Nat.add_assoc]
    exact decodeRequest_slotAddr hplaced hb r p
  · simp [decodeRequest, hb, decodeInBank_opcode]

end Sys2Proof
end

section
/-! The transactions (40_csr_access.md): where results go, what each read returns, what each write stores, and what a
write makes of the next `ENV` step. -/

namespace Sys2Proof.Machine

variable {s t u : State} {bk bk' : Bank} {p q : Port} {i : Pin}

/-! What a transaction, or a request, that answers a next state has done. -/

theorem exec_next_cases {i : Instr} (h : exec i s = .next t) :
    (∃ f, t = s.raise f ∧ (s.banks[s.bus.bank]? = none ∨ i.reg = .inp ∧ i.isWrite = true)) ∨
      (i.isWrite = false ∧ ∃ d n, t = s.deliver d n) ∨
      (i.isWrite = true ∧ ∃ bk bk', s.banks[s.bus.bank]? = some bk ∧ WriteEffect i bk bk' ∧
        t = (s.setBank bk').retire) := by
  obtain ⟨t', ht', hcases⟩ := exec_cases i s
  rwa [Host.Outcome.next.inj (h.symm.trans ht')]

theorem issue_next_cases {m : Master} {r : Request} (h : issue m r s = .next t) :
    (∃ b f, t = ((s.grant m).select b).raise f) ∨
      (∃ b i d n, decodeRequest s.cfg s.banks.length r = .ok b i ∧ i.isWrite = false ∧
        t = ((s.grant m).select b).deliver d n) ∨
      (∃ b i bk bk', decodeRequest s.cfg s.banks.length r = .ok b i ∧ i.isWrite = true ∧
        s.banks[b]? = some bk ∧ WriteEffect i bk bk' ∧ t = (((s.grant m).select b).setBank bk').retire) := by
  obtain ⟨t', ht', hcases⟩ := issue_cases m r s
  rwa [Host.Outcome.next.inj (h.symm.trans ht')]

/-! Results (R39, R43, R111). -/

/-- Settles O8: `deliver` and `retire` by the agent on the bus. -/
theorem resultsGoToTheirIssuer : Obligations.ResultsGoToTheirIssuer := by
  intro s d n
  cases hm : s.bus.master <;> simp [State.deliver, State.retire, hm]

/-! Reads. -/

/-- R110: what a storage read returns is what the rule allows, mode by mode. -/
theorem readValue_readsSlot (cfg : Config) (r : StorageReg) (v : Slot) (d : Word32) :
    ReadsSlot cfg.reservedRead (implMask cfg r) v d (readValue cfg r v d) := by
  cases v with
  | unknown => simp [ReadsSlot, readValue]
  | word x =>
    cases hmode : cfg.reservedRead with
    | asWritten => simp [ReadsSlot, readValue, hmode]
    | draw =>
      intro k hk
      simp only [readValue, hmode, BitVec.getLsbD_or, BitVec.getLsbD_and, BitVec.getLsbD_not, hk]
      cases (implMask cfg r).getLsbD k <;> simp

theorem readValue_asWritten {cfg : Config} (h : cfg.reservedRead = .asWritten) (r : StorageReg) (x d : Word32) :
    readValue cfg r (.word x) d = x := by
  simp [readValue, h]

/-- On a bank that exists, a storage read delivers one word. -/
theorem State.readStorage_some (r : StorageReg) (p : Port) (h : s.banks[s.bus.bank]? = some bk) :
    s.readStorage r p =
      .next (s.deliver (readValue s.cfg r (bk.csr.get r p) (Config.freeWord s.draws)) 1) :=
  State.access_some r.reg p _ h

theorem exec_opcode_storage_read (r : StorageReg) (p : Port) (d : Word32) (s : State) :
    exec (opcode false r.reg p d) s = s.readStorage r p := by
  cases r <;> rfl

/-- Settles O9: each of the five reads delivers the word `read_storage` allows. -/
theorem storageReadsComplete : Obligations.StorageReadsComplete := by
  intro s p bk hbank
  have read (r : StorageReg) : ∃ w, s.readStorage r p = .next (s.deliver w 1) ∧
      ReadsSlot s.cfg.reservedRead (implMask s.cfg r) (bk.csr.get r p) (Config.freeWord s.draws) w :=
    ⟨_, State.readStorage_some r p hbank, readValue_readsSlot ..⟩
  exact ⟨read .cnf, read .oe, read .out, read .intEnb, read .intLvl⟩

/-- The lanes of a read word below bit 8 are the byte's. -/
theorem laneWord_lane (b : Byte) (d : Word32) (i : Pin) : (laneWord b d).getLsbD i = b.getLsbD i := by
  rw [laneWord_getLsbD b d i (by omega), if_pos i.isLt]

theorem laneWord_above (b : Byte) (d : Word32) {k : Nat} (hlow : 8 ≤ k) (hhigh : k < 32) :
    (laneWord b d).getLsbD k = d.getLsbD k := by
  rw [laneWord_getLsbD b d k hhigh, if_neg (by omega)]

/-- Settles O15: the delivered word is the pads with drawn bits above them. -/
theorem readInSeesPads : Obligations.ReadInSeesPads := fun _ _ _ hbank =>
  ⟨_, State.access_some _ _ _ hbank, fun k hk => laneWord_lane _ _ ⟨k, hk⟩, fun _ => laneWord_above _ _⟩

/-- R120: a known status bit is read as it is, an `UNKNOWN` one as a draw. -/
theorem statusByte_lane (sta : Vector Tri 8) (draw : Pin → Bool) (i : Pin) :
    (sta[i] = .lo → (statusByte sta draw).getLsbD i = false) ∧
      (sta[i] = .hi → (statusByte sta draw).getLsbD i = true) ∧
      (sta[i] = .unknown → (statusByte sta draw).getLsbD i = draw i) := by
  simp only [statusByte, BitVec.getLsbD_ofFnLE, i.isLt, dite_true]
  cases sta[i] <;> simp

/-- Settles O17: the delivered word is the status byte with drawn bits above it. -/
theorem readStatusReturnsLatches : Obligations.ReadStatusReturnsLatches := by
  intro s p bk hbank
  refine ⟨_, State.access_some _ _ _ hbank, fun i => ?_, fun _ => laneWord_above _ _⟩
  rw [laneWord_lane]
  exact statusByte_lane _ _ i

/-- Settles O19: the read of a command register delivers the draw. -/
theorem readClearReturnsDraw : Obligations.ReadClearReturnsDraw :=
  fun _ _ _ hbank => State.access_some _ _ _ hbank

/-! Writes. -/

/-- Settles O16: the fault records the descriptor, which is the match word of `WR IN` with the port. -/
theorem writeInFaults : Obligations.WriteInFaults := by
  intro s p d bk hbank
  have htd : encodeTd (.wrIn p d) = 0x2B0#10 ||| (BitVec.ofNat 10 p.val <<< 2) := encodeTd_eq_matchWord_or_port _
  rw [← htd]
  exact State.access_some _ _ _ hbank

/-- Settles O18: both writes are the one access that clears the status bits. -/
theorem statusWritesClearOnes : Obligations.StatusWritesClearOnes := fun _ p d bk hbank =>
  ⟨clearStatus bk.sta[p] d, clearStatus_get _ _, State.access_some _ _ _ hbank, State.access_some _ _ _ hbank⟩

/-! The edge latch (R162, R163). -/

/-- What a vector over the ports holds after one port was replaced. -/
theorem getElem_set_port {α : Type} (x : Vector α 4) (p q : Port) (a : α) :
    (x.set p a)[q] = if q = p then a else x[q] := by
  simp [Vector.getElem_set, Fin.ext_iff, eq_comm]

/-- Under `EDGE_BOTH` a level change is an event, and nothing else is. -/
theorem latchEvent_edgeBoth (edgeBoth : Word32) (draw : Pin → Bool) (i : Pin) (old new : Bool) :
    latchEvent edgeBoth (.word edgeBoth) draw i old new = (old != new) := by
  simp [latchEvent, intEvent]

theorem Bank.envStep_sta_same (bk : Bank) (edgeBoth : Word32) (draw : Pin → Bool) (p : Port) (v : Byte) (i : Pin) :
    ((bk.envStep edgeBoth draw p v).sta[p])[i] =
      if latchEvent edgeBoth bk.csr.intLvl[p] draw i ((bk.ext[p]).getLsbD i) (v.getLsbD i) then .hi
      else (bk.sta[p])[i] := by
  rw [← latchStatus_get]
  simp [Bank.envStep]

/-- Where the level word is `EDGE_BOTH`, exactly the pins whose level changes latch. -/
theorem Bank.envStep_sta_edgeBoth {edgeBoth : Word32} (hlvl : bk.csr.intLvl[p] = .word edgeBoth) (draw : Pin → Bool)
    (v : Byte) (i : Pin) :
    ((bk.envStep edgeBoth draw p v).sta[p])[i] =
      if (bk.ext[p]).getLsbD i = v.getLsbD i then (bk.sta[p])[i] else .hi := by
  rw [Bank.envStep_sta_same, hlvl, latchEvent_edgeBoth]
  simp

theorem Bank.envStep_sta_other {edgeBoth : Word32} {draw : Pin → Bool} {v : Byte} (h : q ≠ p) :
    (bk.envStep edgeBoth draw p v).sta[q] = bk.sta[q] := by
  rw [Bank.envStep, getElem_set_port, if_neg h]

/-- Settles O14: the write is a storage write, and the latch compares levels where the level word is `EDGE_BOTH`. -/
theorem writeIntLvlSetsMode : Obligations.WriteIntLvlSetsMode := by
  intro s p d bk hbank
  have hlvl : (bk.csr.set .intLvl p (.word d)).intLvl[p] = .word d := Csr.get_set_same bk.csr .intLvl p (.word d)
  refine ⟨_, rfl, State.writeStorage_some .intLvl p d hbank, hlvl, rfl, rfl, rfl, ?_⟩
  rintro rfl
  exact Bank.envStep_sta_edgeBoth hlvl

/-! Reading back, writing again. -/

/-- After a write the bank on the bus is the one written. -/
theorem State.setBank_retire_selected (h : s.banks[s.bus.bank]? = some bk) (bk' : Bank) :
    (s.setBank bk').retire.banks[(s.setBank bk').retire.bus.bank]? = some bk' := by
  have hlt : s.bus.bank < s.banks.length := (List.getElem?_eq_some_iff.mp h).1
  simp [hlt]

/-- Settles O24: the read finds the slot as the write left it, and under `AS_WRITTEN` delivers it. -/
theorem writeThenReadReturnsIt : Obligations.WriteThenReadReturnsIt := by
  intro s p d bk hbank hmode wr rd hpair
  have hreg : ∃ r : StorageReg, wr = opcode true r.reg p d ∧ rd = opcode false r.reg p 0 := by
    rcases hpair with h | h | h | h | h
    exacts [⟨.cnf, h⟩, ⟨.oe, h⟩, ⟨.out, h⟩, ⟨.intEnb, h⟩, ⟨.intLvl, h⟩]
  obtain ⟨r, rfl, rfl⟩ := hreg
  refine ⟨_, _, (exec_opcode_storage_write ..).trans (State.writeStorage_some r p d hbank),
    (exec_opcode_storage_read ..).trans (State.readStorage_some r p (State.setBank_retire_selected hbank _)), ?_, ?_,
    fun hsw => ?_⟩
  · simp [readValue_asWritten, hmode]
  · simp
  · simp [State.deliver_sw, State.retire_sw, hsw, readValue_asWritten, hmode]

theorem vector_ext_fin {α : Type} {n : Nat} {x y : Vector α n} (h : ∀ k : Fin n, x[k] = y[k]) : x = y :=
  Vector.ext fun k hk => h ⟨k, hk⟩

/-- The storage registers are their 20 slots. -/
theorem Csr.eq_of_get_eq {c c' : Csr} (h : ∀ r p, c.get r p = c'.get r p) : c = c' := by
  cases c
  cases c'
  rw [Csr.mk.injEq]
  exact ⟨vector_ext_fin (h .cnf), vector_ext_fin (h .oe), vector_ext_fin (h .out), vector_ext_fin (h .intEnb),
    vector_ext_fin (h .intLvl)⟩

/-- A write that finds in the bank what it would leave there changes nothing. -/
theorem WriteEffect.eq_self {i : Instr} (h : WriteEffect i bk bk')
    (hslot : ∀ r : StorageReg, r.reg = i.reg → bk.csr.get r i.port = .word i.data)
    (hsta : i.reg = .intSta ∨ i.reg = .intClr → clearStatus bk.sta[i.port] i.data = bk.sta[i.port]) : bk' = bk := by
  have hcsr : bk'.csr = bk.csr := Csr.eq_of_get_eq fun r q => by
    by_cases hrq : r.reg = i.reg ∧ q = i.port
    · obtain ⟨hr, rfl⟩ := hrq
      rw [h.stored r hr, hslot r hr]
    · exact h.slots r q (not_and_or.mp hrq)
  have hstatus : bk'.sta = bk.sta := vector_ext_fin fun q : Port => by
    by_cases hq : (i.reg = .intSta ∨ i.reg = .intClr) ∧ q = i.port
    · obtain ⟨hr, rfl⟩ := hq
      rw [h.cleared hr, hsta hr]
    · exact h.status q (by rwa [not_and_or, not_or] at hq)
  cases bk
  cases bk'
  rw [Bank.mk.injEq]
  exact ⟨hcsr, hstatus, h.pads, h.latch⟩

theorem clearStatus_idem (sta : Vector Tri 8) (d : Word32) :
    clearStatus (clearStatus sta d) d = clearStatus sta d := by
  refine vector_ext_fin fun i : Pin => ?_
  simp only [clearStatus_get]
  split <;> rfl

/-- A write after the same write finds what it would leave. -/
theorem WriteEffect.repeat {i : Instr} {bk'' : Bank} (h : WriteEffect i bk bk') (h' : WriteEffect i bk' bk'') :
    bk'' = bk' :=
  h'.eq_self h.stored fun hr => by rw [h.cleared hr, clearStatus_idem]

/-- Settles O25: where the first write faulted the second does nothing to the banks either, and else it repeats the
first. -/
theorem equalWritesActOnce : Obligations.EqualWritesActOnce := by
  intro i s t u hwrite ht hu
  rcases exec_next_cases hu with ⟨f, rfl, -⟩ | ⟨hread, -⟩ | ⟨-, bk', bk'', hbank', heffect', rfl⟩
  · exact State.raise_banks ..
  · simp [hwrite] at hread
  have hsame : bk'' = bk' := by
    rcases exec_next_cases ht with ⟨f, rfl, hnone | ⟨hinp, -⟩⟩ | ⟨hread, -⟩ | ⟨-, bk, bk₁, hbank, heffect, rfl⟩
    · simp [hnone] at hbank'
    · exact heffect'.eq_self (fun r hr => by cases r <;> simp [StorageReg.reg, hinp] at hr) (by simp [hinp])
    · simp [hwrite] at hread
    · rw [State.setBank_retire_selected hbank] at hbank'
      obtain rfl := Option.some.inj hbank'
      exact heffect.repeat heffect'
  obtain ⟨_, rfl⟩ := List.getElem?_eq_some_iff.mp hbank'
  rw [State.retire_banks, State.setBank_banks, hsame, List.set_getElem_self]

end Sys2Proof.Machine
end

section
/-! Frames (20_memory.md sections 2 and 4; 40_csr_access.md sections 1 to 9; 60_exceptions.md section 1): what a
transaction, and a request that decoding faults, leave unchanged. -/

namespace Sys2Proof.Machine

variable {s t : State}

/-! The agents that are not on the bus keep all they hold. -/

section OtherAgents

variable {f : FaultRec} {d : Word32} {n : Nat}

theorem State.raise_sw_of_ne (h : s.bus.master ≠ .sw) : (s.raise f).sw = s.sw := by
  rw [State.raise_sw, if_neg h]

theorem State.raise_echo_of_ne (h : s.bus.master ≠ .echo) : (s.raise f).echo = s.echo := by
  rw [State.raise_echo, if_neg h]

theorem State.raise_extFault_of_ne (h : s.bus.master ≠ .ext) : (s.raise f).extFault = s.extFault := by
  rw [State.raise_extFault, if_neg h]

theorem State.deliver_sw_of_ne (h : s.bus.master ≠ .sw) : (s.deliver d n).sw = s.sw := by
  rw [State.deliver_sw, if_neg h]

theorem State.retire_sw_of_ne (h : s.bus.master ≠ .sw) : s.retire.sw = s.sw := by
  rw [State.retire_sw, if_neg h]

end OtherAgents

/-! The transactions. -/

/-- Settles O20: a read faults, which no bank that exists lets it, or delivers a word. -/
theorem readsChangeNoBank : Obligations.ReadsChangeNoBank := by
  intro i s t hread ht
  rcases exec_next_cases ht with ⟨f, rfl, hfault⟩ | ⟨-, d, n, rfl⟩ | ⟨hwrite, -⟩
  · have hnone : s.banks[s.bus.bank]? = none := by simpa [hread] using hfault
    simp +contextual [State.raise_sw_of_ne, State.raise_echo_of_ne, State.raise_extFault_of_ne, hnone]
  · simp +contextual [State.deliver_sw_of_ne]
  · simp [hread] at hwrite

/-- Settles O21: a write faults, or replaces the bank on the bus by one that `WriteEffect` describes. -/
theorem writesTouchOnlyTheirSlot : Obligations.WritesTouchOnlyTheirSlot := by
  intro i s t hwrite ht
  rcases exec_next_cases ht with ⟨f, rfl, hfault⟩ | ⟨hread, -⟩ | ⟨-, bk, bk', hbank, heffect, rfl⟩
  · refine ⟨by simp, fun bk hbank => ?_, ?_⟩
    · have hinp : i.reg = .inp := by simpa [hwrite, hbank] using hfault
      exact ⟨bk, by simpa using hbank, rfl, rfl, fun _ _ _ => rfl, fun _ _ => rfl, fun h => absurd hinp h⟩
    · simp +contextual [State.raise_sw_of_ne, State.raise_echo_of_ne, State.raise_extFault_of_ne]
  · simp [hwrite] at hread
  · refine ⟨fun b hb => by simp [List.getElem?_set_ne hb.symm], fun bk₀ hbank₀ => ?_, ?_⟩
    · obtain rfl : bk = bk₀ := Option.some.inj (hbank.symm.trans hbank₀)
      exact ⟨bk', by simpa using State.setBank_retire_selected hbank bk', heffect.pads, heffect.latch, heffect.slots,
        heffect.status, by simp⟩
    · have hsw : s.bus.master ≠ .sw → (s.setBank bk').retire.sw = s.sw := fun h => State.retire_sw_of_ne h
      simpa using hsw

theorem recordFault_eq_getD (old : Option FaultRec) (f : FaultRec) : recordFault old f = some (old.getD f) := by
  cases old <;> rfl

/-- Settles O22: the fault that decoding finds is raised by the issuing agent. -/
theorem faultingRequestChangesNoBank : Obligations.FaultingRequestChangesNoBank := by
  intro m r s f hdecode
  refine ⟨(s.grant m).raise f, by simp [issue, hdecode], ?_⟩
  simp [State.raise_sw, State.raise_echo, State.raise_extFault, recordFault_eq_getD]

/-- Settles O23: the instruction changes the bank it was decoded for, or none. -/
theorem banksAreIndependent : Obligations.BanksAreIndependent := by
  intro m r s t b b' i hdecode ht hne
  have ht : exec i ((s.grant m).select b) = .next t := by simpa [issue, hdecode] using ht
  rcases exec_next_cases ht with ⟨f, rfl, -⟩ | ⟨-, d, n, rfl⟩ | ⟨-, bk, bk', -, -, rfl⟩
  · simp
  · simp
  · simp [List.getElem?_set_ne hne.symm]

end Sys2Proof.Machine
end

section
/-! Turns and steps (10_state.md section 6; 42_pad_events.md): what a turn of D30 touches outside its registers, what
any turn can do to the banks, and what no step changes. -/

namespace Sys2Proof

/-- An encoded request decodes to the instruction it encodes, or to a fault. -/
theorem eq_of_decodeRequest_encode {cfg : Config} {n b b' : Nat} {i i' : Instr}
    (h : decodeRequest cfg n (encode b i) = .ok b' i') : b' = b ∧ i' = i := by
  by_cases hb : b < n
  · rw [decodeRequest_encode cfg i hb, Decoded.ok.injEq] at h
    exact ⟨h.1.symm, h.2.symm⟩
  · simp [decodeRequest, encode, hb] at h

end Sys2Proof

namespace Sys2Proof.Machine

variable {s t u : State} {e : Event}

/-! The turn of D30, seen from outside. -/

/-- D30's turn issues one request of its own at most, and else changes nothing but its own registers. -/
theorem stepEcho_eq_request (h : stepEcho s = .next t) :
    ∃ u reg, t = { u with echo := reg } ∧ (u = s ∨ (∃ high, s.writeTrigger high = .next u) ∨ s.readEcho = .next u) := by
  rcases stepEcho_cases h with rfl | ⟨-, hassert | hhold | hsample | htimeout | hstamp | hstamp | hreport | hgap⟩
  · exact ⟨t, _, rfl, .inl rfl⟩
  · obtain ⟨-, -, u, hu, ⟨-, rfl⟩ | ⟨-, rfl⟩⟩ := hassert
    · exact ⟨t, _, rfl, .inr (.inl ⟨true, hu⟩)⟩
    · exact ⟨u, _, rfl, .inr (.inl ⟨true, hu⟩)⟩
  · obtain ⟨-, -, -, u, hu, ⟨-, rfl⟩ | ⟨-, rfl⟩⟩ := hhold
    · exact ⟨t, _, rfl, .inr (.inl ⟨false, hu⟩)⟩
    · exact ⟨u, _, rfl, .inr (.inl ⟨false, hu⟩)⟩
  · obtain ⟨edge, -, -, -, u, hu, ⟨-, rfl⟩ | ⟨-, rfl⟩⟩ := hsample
    · exact ⟨t, _, rfl, .inr (.inr hu)⟩
    · exact ⟨u, _, rfl, .inr (.inr hu)⟩
  · obtain ⟨-, -, -, rfl⟩ := htimeout
    exact ⟨s, _, rfl, .inl rfl⟩
  · obtain ⟨-, -, rfl⟩ := hstamp
    exact ⟨s, _, rfl, .inl rfl⟩
  · obtain ⟨-, -, rfl⟩ := hstamp
    exact ⟨s, _, rfl, .inl rfl⟩
  · obtain ⟨-, -, r, f, -, -, -, -, rfl⟩ := hreport
    exact ⟨s, _, rfl, .inl rfl⟩
  · obtain ⟨-, -, -, rfl | rfl⟩ := hgap
    · exact ⟨s, _, rfl, .inl rfl⟩
    · exact ⟨s, _, rfl, .inl rfl⟩

/-- The parameters, the clock, the mark and the registers of the other agents are not D30's to change. -/
theorem stepEcho_frame (h : stepEcho s = .next t) :
    t.cfg = s.cfg ∧ t.clk = s.clk ∧ t.clkFault = s.clkFault ∧ t.refused = s.refused ∧ t.sw = s.sw ∧
      t.extFault = s.extFault := by
  obtain ⟨u, reg, rfl, rfl | ⟨high, hu⟩ | hu⟩ := stepEcho_eq_request h
  · exact ⟨rfl, rfl, rfl, rfl, rfl, rfl⟩
  all_goals
    obtain ⟨hcfg, hclk, hclkFault, hrefused, -⟩ := issue_frame hu
    obtain ⟨hsw, hext, -⟩ := issue_echo hu
    exact ⟨hcfg, hclk, hclkFault, hrefused, hsw, hext⟩

/-! The banks after a turn. -/

/-- A request leaves the banks as they are, or is a write of the bank it decodes to. -/
theorem issue_banks {m : Master} {r : Request} (h : issue m r s = .next t) :
    t.banks = s.banks ∨
      ∃ b i bk bk', s.performs r b i ∧ i.isWrite = true ∧ s.banks[b]? = some bk ∧ WriteEffect i bk bk' ∧
        t.banks = s.banks.set b bk' := by
  rcases issue_next_cases h with
    ⟨b, f, rfl⟩ | ⟨b, i, d, n, -, -, rfl⟩ | ⟨b, i, bk, bk', hdecode, hw, hbank, heffect, rfl⟩
  · exact .inl (by simp)
  · exact .inl (by simp)
  · exact .inr ⟨b, i, bk, bk', hdecode, hw, hbank, heffect, by simp⟩

/-- What a turn can make of the banks: nothing, the effect of one write its agent may perform, or an `ENV` step. -/
inductive BanksAfter (s : State) (e : Event) (banks : List Bank) : Prop where
  | same (hbanks : banks = s.banks) (hnoEnv : ∀ b p v, e = .env b p v → s.banks[b]? = none)
  | write (b : Nat) (i : Instr) (bk bk' : Bank) (hmay : s.mayWrite e b i) (hwrite : i.isWrite = true)
      (hbank : s.banks[b]? = some bk) (heffect : WriteEffect i bk bk') (hbanks : banks = s.banks.set b bk')
  | env (b : Nat) (p : Port) (v : Byte) (bk : Bank) (draw : Pin → Bool) (hevent : e = .env b p v)
      (hbank : s.banks[b]? = some bk) (hbanks : banks = s.banks.set b (bk.envStep s.cfg.edgeBoth draw p v))

/-- A request is a write that the turn's event allows, where the event allows what the request decodes to. -/
theorem BanksAfter.of_issue {m : Master} {r : Request} (h : issue m r s = .next t)
    (hmay : ∀ b i, i.isWrite = true → s.performs r b i → s.mayWrite e b i) (hnoEnv : ∀ b p v, e ≠ .env b p v) :
    BanksAfter s e t.banks := by
  rcases issue_banks h with hbanks | ⟨b, i, bk, bk', hperforms, hwrite, hbank, heffect, hbanks⟩
  · exact .same hbanks fun b p v he => absurd he (hnoEnv b p v)
  · exact .write b i bk bk' (hmay b i hwrite hperforms) hwrite hbank heffect hbanks

theorem stepEcho_banks (h : stepEcho s = .next t) : BanksAfter s .echo t.banks := by
  obtain ⟨u, reg, rfl, rfl | ⟨high, hu⟩ | hu⟩ := stepEcho_eq_request h
  · exact .same rfl (by simp)
  · have hu : BanksAfter s .echo u.banks := .of_issue hu (fun b i _ hperforms => by
      obtain ⟨rfl, rfl⟩ := eq_of_decodeRequest_encode hperforms
      exact ⟨rfl, high, rfl⟩) (by simp)
    exact hu
  · have hu : BanksAfter s .echo u.banks := .of_issue hu (fun b i hwrite hperforms => by
      obtain ⟨rfl, rfl⟩ := eq_of_decodeRequest_encode hperforms
      simp [Instr.isWrite] at hwrite) (by simp)
    exact hu

theorem stepEnv_banks {b : Nat} {p : Port} {v : Byte} (h : stepEnv b p v s = .next t) :
    BanksAfter s (.env b p v) t.banks := by
  unfold stepEnv at h
  split at h
  · next hbank =>
    obtain rfl := Host.Outcome.next.inj h
    exact .same rfl (by rintro _ _ _ ⟨rfl⟩; exact hbank)
  · next bk hbank =>
    obtain rfl := Host.Outcome.next.inj h
    exact .env b p v bk _ rfl hbank rfl

/-- Everything a turn can do to the banks. -/
theorem runEvent_banks (h : runEvent e s = .next t) : BanksAfter s e t.banks := by
  rcases runEvent_cases h with rfl | hsw | hext | hfetch | hstart | henv | hclk | hecho
  · cases e with
    | env b p v => exact stepEnv_banks h
    | sw | echo | clk _ | ext _ => exact .same rfl (by simp)
  · obtain ⟨r, rfl, -, hitem, ht⟩ := hsw
    exact .of_issue ht (fun b i _ hperforms => ⟨r, hitem, hperforms⟩) (by simp)
  · obtain ⟨r, rfl, hw, -, ht⟩ := hext
    exact .of_issue ht (fun b i _ hperforms => ⟨hw, hperforms⟩) (by simp)
  · obtain ⟨a, rfl, -, -, rfl | rfl⟩ := hfetch
    all_goals exact .same (by simp) (by simp)
  · obtain ⟨rfl, -, -, ⟨-, rfl⟩ | ⟨-, -, rfl⟩⟩ := hstart
    all_goals exact .same (by simp) (by simp)
  · obtain ⟨b, p, v, bk, rfl, hbank, rfl⟩ := henv
    exact .env b p v bk _ rfl hbank rfl
  · obtain ⟨d, rfl, -, rfl | rfl⟩ := hclk
    all_goals exact .same rfl (by simp)
  · obtain ⟨rfl, ht⟩ := hecho
    exact stepEcho_banks ht

/-- Everything a step can do to the banks. -/
theorem step_banks (h : step s = .next t) : BanksAfter s s.nextEvent.1 t.banks := by
  obtain ⟨sched, events, heq⟩ := State.nextEvent_eq s
  rw [step, heq] at h
  cases runEvent_banks h with
  | same hbanks hnoEnv => exact .same hbanks hnoEnv
  | write b i bk bk' hmay hwrite hbank heffect hbanks => exact .write b i bk bk' hmay hwrite hbank heffect hbanks
  | env b p v bk draw hevent hbank hbanks => exact .env b p v bk draw hevent hbank hbanks

end Sys2Proof.Machine
end

section
/-! What no step changes, and what only some turns change (10_state.md sections 3 and 6; 42_pad_events.md;
40_csr_access.md section 1). -/

namespace Sys2Proof.Machine

variable {s t : State} {e : Event} {b : Nat} {bk bk' : Bank} {banks : List Bank}

/-! One bank after a turn. -/

/-- A turn leaves as many banks as there were. -/
theorem BanksAfter.length_eq (h : BanksAfter s e banks) : banks.length = s.banks.length := by
  cases h with
  | same hbanks => rw [hbanks]
  | write b i bk bk' hmay hwrite hbank heffect hbanks => rw [hbanks, List.length_set]
  | env b p v bk draw hevent hbank hbanks => rw [hbanks, List.length_set]

theorem getElem?_set_of_some {α : Type} {l : List α} {b c : Nat} {x y z : α} (hx : l[b]? = some x)
    (hy : l[c]? = some y) : (l.set c z)[b]? = some (if c = b then z else x) := by
  have hlt : c < l.length := (List.getElem?_eq_some_iff.mp hy).1
  rw [List.getElem?_set]
  split <;> simp_all

/-- What a turn can make of a bank: nothing, where the turn is no `ENV` step of it; the effect of a write to it that
the agent of the turn may perform; or an `ENV` step of it. -/
theorem BanksAfter.bank (h : BanksAfter s e banks) (hbank : s.banks[b]? = some bk) :
    ∃ bk', banks[b]? = some bk' ∧
      ((bk' = bk ∧ ∀ p v, e ≠ .env b p v) ∨
        (∃ i, s.mayWrite e b i ∧ i.isWrite = true ∧ WriteEffect i bk bk') ∨
        ∃ p v draw, e = .env b p v ∧ bk' = bk.envStep s.cfg.edgeBoth draw p v) := by
  cases h with
  | same hbanks hnoEnv =>
    exact ⟨bk, hbanks ▸ hbank, .inl ⟨rfl, fun p v he => by simp [hnoEnv b p v he] at hbank⟩⟩
  | write c i bk₁ bk₂ hmay hwrite hbank₁ heffect hbanks =>
    refine ⟨_, hbanks ▸ getElem?_set_of_some hbank hbank₁, ?_⟩
    by_cases hc : c = b
    · subst hc
      obtain rfl := Option.some.inj (hbank.symm.trans hbank₁)
      exact .inr (.inl ⟨i, hmay, hwrite, by simpa using heffect⟩)
    · refine .inl ⟨if_neg hc, ?_⟩
      rintro p v rfl
      exact hmay
  | env c p v bk₁ draw hevent hbank₁ hbanks =>
    refine ⟨_, hbanks ▸ getElem?_set_of_some hbank hbank₁, ?_⟩
    by_cases hc : c = b
    · subst hc
      obtain rfl := Option.some.inj (hbank.symm.trans hbank₁)
      exact .inr (.inr ⟨p, v, draw, hevent, if_pos rfl⟩)
    · exact .inl ⟨if_neg hc, by simp [hevent, hc]⟩

/-- Settles O31: a write keeps the pads, an `ENV` step sets those of its port. -/
theorem onlyEnvMovesPads : Obligations.OnlyEnvMovesPads := by
  intro s t b bk ht hbank
  obtain ⟨bk', hbank', hcases⟩ := (step_banks ht).bank hbank
  refine ⟨bk', hbank', ?_⟩
  rcases hcases with ⟨rfl, hnoEnv⟩ | ⟨i, hmay, -, heffect⟩ | ⟨p, v, draw, he, rfl⟩
  · refine ⟨fun _ => rfl, fun b' p v he q => ?_⟩
    have hne : b' ≠ b := by rintro rfl; exact hnoEnv p v he
    simp [hne]
  · refine ⟨fun _ => heffect.pads, fun b' p v he => ?_⟩
    rw [he] at hmay
    exact hmay.elim
  · refine ⟨fun hnoEnv => absurd he (hnoEnv b p v), fun b' p' v' he' q => ?_⟩
    obtain ⟨rfl, rfl, rfl⟩ := Event.env.inj (he.symm.trans he')
    simp only [true_and, Bank.envStep]
    exact getElem_set_port ..

/-- Settles O32: a write that changes a status bit clears its port's bits written as 1, and an `ENV` step sets bits of
its port. -/
theorem statusBitWriters : Obligations.StatusBitWriters := by
  intro s t b bk bk' p i ht hbank hbank' hchanged
  obtain ⟨bk₁, hbank₁, hcases⟩ := (step_banks ht).bank hbank
  obtain rfl := Option.some.inj (hbank₁.symm.trans hbank')
  rcases hcases with ⟨rfl, -⟩ | ⟨instr, hmay, hwrite, heffect⟩ | ⟨q, v, draw, he, rfl⟩
  · exact absurd rfl hchanged
  · by_cases hport : (instr.reg = .intSta ∨ instr.reg = .intClr) ∧ p = instr.port
    · obtain ⟨hreg, rfl⟩ := hport
      rw [heffect.cleared hreg, clearStatus_get] at hchanged ⊢
      have hlane : instr.data.getLsbD i = true := by
        by_contra hlane
        exact hchanged (if_neg hlane)
      have hinstr := opcode_fields instr instr.data fun _ => rfl
      rw [hwrite] at hinstr
      refine .inr ⟨if_pos hlane, instr.data, hlane, ?_⟩
      rcases hreg with hreg | hreg
      all_goals rw [hreg] at hinstr
      · exact .inl (hinstr.symm ▸ hmay)
      · exact .inr (hinstr.symm ▸ hmay)
    · rw [not_and_or, not_or] at hport
      exact absurd (by rw [heffect.status p hport]) hchanged
  · by_cases hport : p = q
    · subst hport
      rw [Bank.envStep_sta_same] at hchanged ⊢
      refine .inl ⟨if_pos ?_, v, he⟩
      by_contra hevent
      exact hchanged (if_neg hevent)
    · exact absurd (by rw [Bank.envStep_sta_other hport]) hchanged

/-- Settles O33: the write that changes a slot names it, and leaves its data word there. -/
theorem storageSlotWriters : Obligations.StorageSlotWriters := by
  intro s t b bk bk' r p ht hbank hbank' hchanged
  obtain ⟨bk₁, hbank₁, hcases⟩ := (step_banks ht).bank hbank
  obtain rfl := Option.some.inj (hbank₁.symm.trans hbank')
  rcases hcases with ⟨rfl, -⟩ | ⟨i, hmay, hwrite, heffect⟩ | ⟨q, v, draw, he, rfl⟩
  · exact absurd rfl hchanged
  · by_cases hslot : r.reg = i.reg ∧ p = i.port
    · obtain ⟨hreg, rfl⟩ := hslot
      exact ⟨i, hwrite, hreg.symm, rfl, heffect.stored r hreg, hmay⟩
    · exact absurd (heffect.slots r p (not_and_or.mp hslot)) hchanged
  · exact absurd rfl hchanged

/-- An `ENV` step keeps the edge latch equal to the pads, and a write changes neither. -/
theorem LatchInv.of_step (h : LatchInv s) (ht : step s = .next t) : LatchInv t := by
  intro bk' hmem
  cases step_banks ht with
  | same hbanks => exact h bk' (hbanks ▸ hmem)
  | write b i bk bk₁ hmay hwrite hbank heffect hbanks =>
    rcases List.mem_or_eq_of_mem_set (hbanks ▸ hmem) with hmem | rfl
    · exact h bk' hmem
    · rw [heffect.latch, heffect.pads, h bk (List.mem_of_getElem? hbank)]
  | env b p v bk draw hevent hbank hbanks =>
    rcases List.mem_or_eq_of_mem_set (hbanks ▸ hmem) with hmem | rfl
    · exact h bk' hmem
    · simp only [Bank.envStep, h bk (List.mem_of_getElem? hbank)]

/-- Settles O50: at reset the edge latch is the pads by definition. -/
theorem latchMemoryFollowsPads : Obligations.LatchMemoryFollowsPads := by
  refine ⟨fun bk hmem => ?_, fun s t => LatchInv.of_step⟩
  obtain ⟨pads, -, rfl⟩ := List.mem_map.mp hmem
  rfl

/-! The parameters and the clock. -/

/-- No turn changes a parameter, and none but `CLK`'s moves the clock. -/
theorem runEvent_cfg_clk (h : runEvent e s = .next t) :
    t.cfg = s.cfg ∧ s.clk ≤ t.clk ∧ ((∀ d, e ≠ .clk d) → t.clk = s.clk) := by
  have of_eq (hcfg : t.cfg = s.cfg) (hclk : t.clk = s.clk) :
      t.cfg = s.cfg ∧ s.clk ≤ t.clk ∧ ((∀ d, e ≠ .clk d) → t.clk = s.clk) := ⟨hcfg, hclk.ge, fun _ => hclk⟩
  rcases runEvent_cases h with rfl | hsw | hext | hfetch | hstart | henv | hclk | hecho
  · exact of_eq rfl rfl
  · obtain ⟨r, -, -, -, ht⟩ := hsw
    obtain ⟨hcfg, hclk, -⟩ := issue_frame ht
    exact of_eq hcfg hclk
  · obtain ⟨r, -, -, -, ht⟩ := hext
    obtain ⟨hcfg, hclk, -⟩ := issue_frame ht
    exact of_eq hcfg hclk
  · obtain ⟨a, -, -, -, rfl | rfl⟩ := hfetch
    all_goals exact of_eq (by simp) (by simp)
  · obtain ⟨-, -, -, ⟨-, rfl⟩ | ⟨-, -, rfl⟩⟩ := hstart
    all_goals exact of_eq (by simp) (by simp)
  · obtain ⟨b, p, v, bk, -, -, rfl⟩ := henv
    exact of_eq rfl rfl
  · obtain ⟨d, rfl, -, rfl | rfl⟩ := hclk
    · exact of_eq rfl rfl
    · exact ⟨rfl, Nat.le_add_right _ _, fun hno => absurd rfl (hno d)⟩
  · obtain ⟨hcfg, hclk, -⟩ := stepEcho_frame hecho.2
    exact of_eq hcfg hclk

/-- Settles O29: the turn starts from the clock of the state. -/
theorem clockNeverGoesBack : Obligations.ClockNeverGoesBack := fun s t ht => by
  simpa using (runEvent_cfg_clk ht).2

/-- Settles O30: the parameters by the turn, the number of banks by what a turn can make of them. -/
theorem parametersNeverChange : Obligations.ParametersNeverChange := fun s t ht =>
  ⟨by simpa using (runEvent_cfg_clk ht).1, (step_banks ht).length_eq⟩

/-! Faults (R44, R221). -/

/-- Every fault recorded in `s` is recorded in `t`, and so is the mark of a refused run. -/
structure FaultsKept (s t : State) : Prop where
  sw : ∀ f, s.sw.fault = some f → t.sw.fault = some f
  echo : ∀ f, s.echo.fault = some f → t.echo.fault = some f
  ext : ∀ f, s.extFault = some f → t.extFault = some f
  clk : ∀ f, s.clkFault = some f → t.clkFault = some f
  refused : s.refused = true → t.refused = true

theorem FaultsKept.of_eq (hsw : t.sw.fault = s.sw.fault) (hecho : t.echo.fault = s.echo.fault)
    (hext : t.extFault = s.extFault) (hclk : t.clkFault = s.clkFault) (hrefused : t.refused = s.refused) :
    FaultsKept s t :=
  ⟨by simp [hsw], by simp [hecho], by simp [hext], by simp [hclk], by simp [hrefused]⟩

theorem FaultsKept.trans {u : State} (h : FaultsKept s u) (h' : FaultsKept u t) : FaultsKept s t :=
  ⟨fun f => h'.sw f ∘ h.sw f, fun f => h'.echo f ∘ h.echo f, fun f => h'.ext f ∘ h.ext f, fun f => h'.clk f ∘ h.clk f,
    h'.refused ∘ h.refused⟩

theorem FaultsKept.grant (s : State) (m : Master) : FaultsKept s (s.grant m) :=
  .of_eq rfl rfl rfl rfl rfl

theorem FaultsKept.select (s : State) (b : Nat) : FaultsKept s (s.select b) :=
  .of_eq rfl rfl rfl rfl rfl

/-- A fault register that is set is not overwritten by the next fault. -/
theorem FaultsKept.raise (s : State) (f : FaultRec) : FaultsKept s (s.raise f) where
  sw g hg := by rw [State.raise_sw]; split <;> simp [hg]
  echo g hg := by rw [State.raise_echo]; split <;> simp [hg]
  ext g hg := by rw [State.raise_extFault]; split <;> simp [hg]
  clk := by simp
  refused := by simp

theorem FaultsKept.refuse (s : State) (f : FaultRec) : FaultsKept s (s.refuse f) :=
  { FaultsKept.raise s f with refused := fun _ => rfl }

theorem FaultsKept.of_issue {m : Master} {r : Request} (h : issue m r s = .next t) : FaultsKept s t := by
  rcases issue_next_cases h with ⟨b, f, rfl⟩ | ⟨b, i, d, n, -, -, rfl⟩ | ⟨b, i, bk, bk', -, -, -, -, rfl⟩
  · exact ((FaultsKept.grant s m).trans (.select _ b)).trans (.raise _ f)
  · exact .of_eq (by simp) (by simp) (by simp) (by simp) (by simp)
  · exact .of_eq (by simp) (by simp) (by simp) (by simp) (by simp)

/-- A fault of D30 has stopped it, so its turn cannot clear it. -/
theorem FaultsKept.of_stepEcho (h : stepEcho s = .next t) : FaultsKept s t := by
  obtain ⟨-, -, hclkFault, hrefused, hsw, hext⟩ := stepEcho_frame h
  refine ⟨by simp [hsw], fun f hf => ?_, by simp [hext], by simp [hclkFault], by simp [hrefused]⟩
  rcases stepEcho_cases h with rfl | ⟨hnone, -⟩
  · exact hf
  · simp [hnone] at hf

theorem FaultsKept.of_runEvent (h : runEvent e s = .next t) : FaultsKept s t := by
  rcases runEvent_cases h with rfl | hsw | hext | hfetch | hstart | henv | hclk | hecho
  · exact .of_eq rfl rfl rfl rfl rfl
  · obtain ⟨r, -, -, -, ht⟩ := hsw
    exact .of_issue ht
  · obtain ⟨r, -, -, -, ht⟩ := hext
    exact .of_issue ht
  · obtain ⟨a, -, -, -, rfl | rfl⟩ := hfetch
    · exact (FaultsKept.grant s .sw).trans (.refuse _ _)
    · exact (FaultsKept.grant s .sw).trans (.raise _ _)
  · obtain ⟨-, -, -, ⟨-, rfl⟩ | ⟨-, -, rfl⟩⟩ := hstart
    · exact (FaultsKept.grant s .sw).trans (.refuse _ _)
    · exact .of_eq rfl rfl rfl rfl rfl
  · obtain ⟨b, p, v, bk, -, -, rfl⟩ := henv
    exact .of_eq rfl rfl rfl rfl rfl
  · obtain ⟨d, -, hnone, rfl | rfl⟩ := hclk
    · exact ⟨fun _ => id, fun _ => id, fun _ => id, by simp [hnone], fun _ => rfl⟩
    · exact .of_eq rfl rfl rfl rfl rfl
  · exact .of_stepEcho hecho.2

/-- Settles O28: the registers of the state are those the turn starts from. -/
theorem faultsAreSticky : Obligations.FaultsAreSticky := by
  intro s t f ht
  obtain ⟨hsw, hecho, hext, hclk, hrefused⟩ := FaultsKept.of_runEvent ht
  simp only [State.nextEvent_sw, State.nextEvent_echo, State.nextEvent_extFault, State.nextEvent_clkFault,
    State.nextEvent_refused] at hsw hecho hext hclk hrefused
  exact ⟨hsw f, hecho f, hext f, hclk f, hrefused⟩

end Sys2Proof.Machine
end

section
/-! One turn of one agent (10_state.md section 6; 42_pad_events.md sections 1 and 2; 20_memory.md section 3): the
turns that run an instruction, the turns that do nothing, and the turns of `ENV` and `CLK`. -/

namespace Sys2Proof.Machine

variable {s : State}

/-! Turns that issue a request, and turns that are none. -/

theorem issue_of_decode {m : Master} {r : Request} {b : Nat} {i : Instr}
    (h : decodeRequest s.cfg s.banks.length r = .ok b i) : issue m r s = exec i ((s.grant m).select b) := by
  simp [issue, h]

theorem stepSw_bus {r : Request} (hfault : s.sw.fault = none) (hitem : s.sw.prog[s.sw.k]? = some (.bus r)) :
    stepSw s = issue .sw r s := by
  simp [stepSw, hfault, hitem]

theorem stepSw_fetch {a : Nat} (hfault : s.sw.fault = none) (hitem : s.sw.prog[s.sw.k]? = some (.fetch a)) :
    stepSw s = fetchAt a s := by
  simp [stepSw, hfault, hitem]

theorem stepSw_echoStart (hfault : s.sw.fault = none) (hitem : s.sw.prog[s.sw.k]? = some .echoStart) :
    stepSw s = echoStart s := by
  simp [stepSw, hfault, hitem]

theorem step_of_sched {e : Event} {rest : List Event} (h : s.sched = e :: rest) :
    step s = runEvent e { s with sched := rest } := by
  simp [step, State.nextEvent, h]

/-- Settles O26: the turn of `SW` or `EXT` is its request, and a request that decodes is its instruction. -/
theorem stepRunsDecodedInstruction : Obligations.StepRunsDecodedInstruction := by
  refine ⟨fun s e rest => step_of_sched, fun s hsched => by simp [step, State.nextEvent, hsched],
    fun s r b i hdecode => ⟨fun hwriters hext => ?_, fun hfault hitem => ⟨?_, fun rest hsched => ?_⟩⟩⟩
  · calc runEvent (.ext r) s
      _ = issue .ext r s := by simp [runEvent, stepExt, hwriters, hext]
      _ = _ := issue_of_decode hdecode
  · exact (stepSw_bus hfault hitem).trans (issue_of_decode hdecode)
  · rw [step_of_sched hsched]
    exact (stepSw_bus (s := { s with sched := rest }) hfault hitem).trans (issue_of_decode hdecode)

/-- Settles O27: each agent's turn looks at its fault register first, and then for a step it has. -/
theorem stoppedAgentsStandStill : Obligations.StoppedAgentsStandStill := by
  refine fun s => ⟨fun h => ?_, fun h => ?_, fun r h => ?_, fun d h => ?_⟩
  · rcases h with h | h
    · simp [runEvent, stepSw, Option.isSome_iff_ne_none, h]
    · simp [runEvent, stepSw, List.getElem?_eq_none h]
  · rcases h with h | h | h | h
    · simp [runEvent, stepEcho, Option.isSome_iff_ne_none, h]
    all_goals simp [runEvent, stepEcho, h]
  · rcases h with h | h
    all_goals simp [runEvent, stepExt, h]
  · simp [runEvent, stepClk, Option.isSome_iff_ne_none, h]

/-! Refusals of `SW` (R221). -/

theorem State.refuse_of_sw (hfault : s.sw.fault = none) (f : FaultRec) :
    (s.grant .sw).refuse f =
      { s with sw := { s.sw with fault := some f }, bus := { s.bus with master := .sw }, refused := true } := by
  simp [State.refuse, State.raise, State.grant, hfault]

theorem State.raise_of_sw (hfault : s.sw.fault = none) (f : FaultRec) :
    (s.grant .sw).raise f =
      { s with sw := { s.sw with fault := some f }, bus := { s.bus with master := .sw } } := by
  simp [State.raise, State.grant, hfault]

/-- An address in a window selects a bank, on overlapping windows too. -/
theorem findBank_ne_none {cfg : Config} {n a b : Nat} (hb : b < n) (hlow : cfg.baseOf b ≤ a)
    (hhigh : a < cfg.baseOf b + bankSize) : cfg.findBank n a ≠ none := fun hnone =>
  List.find?_eq_none.mp hnone b (List.mem_range.mpr hb) (Config.inWindow_iff.mpr ⟨hlow, hhigh⟩)

/-- Settles O36: an address in a window is a refused fetch, any other a range fault. -/
theorem fetchIsRefused : Obligations.FetchIsRefused := by
  intro s a hfault hitem
  have hturn : runEvent .sw s = fetchAt a s := stepSw_fetch hfault hitem
  refine ⟨fun b hb hlow hhigh => ?_, fun hout => ?_⟩
  · obtain ⟨c, hfind⟩ := Option.ne_none_iff_exists'.mp (findBank_ne_none hb hlow hhigh)
    rw [hturn, ← State.refuse_of_sw hfault]
    simp [fetchAt, hfind]
  · rw [hturn, ← State.raise_of_sw hfault]
    simp [fetchAt, Config.findBank_eq_none hout]

/-! The environment and the clock. -/

/-- Settles O34: the new bank is the `ENV` step's, and the event of each pin is the latch's. -/
theorem envStepLatches : Obligations.EnvStepLatches := by
  intro s b p v bk hbank
  refine ⟨bk.envStep s.cfg.edgeBoth (fun i => Config.freeBit (s.draws + i)) p v, by simp [runEvent, stepEnv, hbank],
    rfl, fun q => ⟨getElem_set_port .., getElem_set_port .., Bank.envStep_sta_other⟩, fun i => ?_⟩
  refine ⟨_, Bank.envStep_sta_same .., fun hlvl => ?_, fun hlvl => ?_, fun l hlvl hne => ?_⟩
  · simp only [hlvl, latchEvent]
  · rw [hlvl, latchEvent_edgeBoth]
  · simp only [hlvl, latchEvent, intEvent, if_neg hne]

/-- Settles O35: the clock wraps exactly where the advance reaches `2^CLK_WIDTH`. -/
theorem clockStepAdvancesOrRefuses : Obligations.ClockStepAdvancesOrRefuses := by
  intro s d hfault hd
  have hd : d ≠ 0 := by omega
  refine ⟨fun hw => ?_, fun w hw => ⟨fun h => ?_, fun h => ?_⟩⟩
  · simp [runEvent, stepClk, State.clkWraps, hfault, hd, hw]
  · simp [runEvent, stepClk, State.clkWraps, hfault, hd, hw, h]
  · simp [runEvent, stepClk, State.clkWraps, hfault, hd, hw, h]

end Sys2Proof.Machine
end

section
/-! The steps of D30 (43_echo_timer.md): its configuration check and start, its transactions on a bank that exists and
on one that does not, each step rule, and what D30 cannot do. -/

namespace Sys2Proof

/-- The byte offset of an encoded descriptor is its slot's. -/
theorem tdOffset_encodeTd (i : Instr) : tdOffset (encodeTd i) = slotOffset i.reg i.port := by
  have hslot := slotOffset_lt i.reg i.port
  rw [← opcode_fields i i.data fun _ => rfl, ← tdOf_slotOffset, opcode_reg, opcode_port]
  exact tdOffset_tdOf _ _ (by omega)

/-- A request by descriptor for a bank that does not exist is a range fault at the slot's address. -/
theorem decodeRequest_encode_absent (cfg : Config) {n b : Nat} (i : Instr) (hb : ¬b < n) :
    decodeRequest cfg n (encode b i) = .fault (.range (cfg.slotAddr b i.reg i.port)) := by
  simp [decodeRequest, encode, hb, tdOffset_encodeTd, Config.slotAddr]

/-- Settles O38: the check's five parts, one by one. -/
theorem echoConfigurationConditions : Obligations.EchoConfigurationConditions := by
  intro cfg
  simp [Config.echoWellFormed, and_assoc, Nat.lt_succ_iff, ← not_and_or]

end Sys2Proof

namespace Sys2Proof.Machine

variable {s t u : State} {bk : Bank}

/-! The start. -/

/-- Settles O37: `ECHO.START` looks at D30's state first and at its configuration next. -/
theorem echoStartOutcomes : Obligations.EchoStartOutcomes := by
  intro s hfault hitem
  have hturn : runEvent .sw s = echoStart s := stepSw_echoStart hfault hitem
  rw [hturn]
  refine ⟨fun hoff hwf => ?_, fun hoff => ?_, fun hoff hwf => ?_⟩
  · simp [echoStart, hoff, hwf]
  · rw [← State.refuse_of_sw hfault]
    simp [echoStart, hoff]
  · simp [echoStart, hoff, hwf]

/-! D30's transactions. -/

theorem State.raise_of_echo (hfault : s.echo.fault = none) (f : FaultRec) :
    (s.grant .echo).raise f =
      { s with
        bus := { s.bus with master := .echo }
        echo := { s.echo with fault := some f, state := .faulted, phase := .none } } := by
  simp [State.raise, State.grant, hfault]

/-- An encoded request for a bank that does not exist is a range fault at its slot's address. -/
theorem issue_encode_absent {b : Nat} (m : Master) (i : Instr) (habsent : s.banks[b]? = none) :
    issue m (encode b i) s = .next ((s.grant m).raise (.range (s.cfg.slotAddr b i.reg i.port))) := by
  have hb : ¬b < s.banks.length := by simpa using habsent
  simp [issue, decodeRequest_encode_absent s.cfg i hb]

/-- A transaction that leaves D30 without a fault is followed by the rest of the step. -/
theorem afterTransaction_of_no_fault (f : State → State) (h : u.echo.fault = none) :
    afterTransaction (.next u) f = .next (f u) := by
  simp [afterTransaction, h]

/-- A transaction on a bank that does not exist ends the step with a range fault (R197). -/
theorem afterTransaction_absent {b : Nat} (i : Instr) (f : State → State) (hfault : s.echo.fault = none)
    (habsent : s.banks[b]? = none) :
    afterTransaction (issue .echo (encode b i) s) f =
      .next
        { s with
          bus := { s.bus with master := .echo }
          echo :=
            { s.echo with
              fault := some (.range (s.cfg.slotAddr b i.reg i.port)), state := .faulted, phase := .none } } := by
  rw [issue_encode_absent .echo i habsent, ← State.raise_of_echo hfault]
  simp [afterTransaction, State.raise_echo]

theorem State.writeTrigger_present (high : Bool) (hbank : s.banks[s.cfg.trigBank]? = some bk) :
    s.writeTrigger high =
      .next
        { s with
          banks :=
            s.banks.set s.cfg.trigBank
              { bk with
                csr :=
                  { bk.csr with out := bk.csr.out.set s.cfg.trigPort (.word (levelWord s.cfg.trigMask high)) } }
          bus := { s.bus with master := .echo, bank := s.cfg.trigBank } } := by
  have hb : s.cfg.trigBank < s.banks.length := (List.getElem?_eq_some_iff.mp hbank).1
  rw [State.writeTrigger, issue_encode .echo _ hb]
  exact State.writeStorage_some (s := (s.grant .echo).select s.cfg.trigBank) .out _ _ hbank

theorem State.readEcho_present (hbank : s.banks[s.cfg.echoBank]? = some bk) :
    s.readEcho =
      .next
        { s with
          bus :=
            { master := .echo, bank := s.cfg.echoBank,
              rdata := laneWord bk.ext[s.cfg.echoPort] (Config.freeWord s.draws) }
          draws := s.draws + 1 } := by
  have hb : s.cfg.echoBank < s.banks.length := (List.getElem?_eq_some_iff.mp hbank).1
  rw [State.readEcho, issue_encode .echo _ hb]
  exact State.access_some (s := (s.grant .echo).select s.cfg.echoBank) _ _ _ hbank

/-- The level D30 takes from the word it read is the pad level of the echo bit (R185). -/
theorem pinLevel_laneWord (b : Byte) (d : Word32) {k : Nat} (hk : k ≤ 7) : pinLevel (laneWord b d) k = b.getLsbD k :=
  laneWord_lane b d ⟨k, Nat.lt_succ_of_le hk⟩

/-! The step rules. -/

/-- Settles O39: the write of the mask, then the marks. -/
theorem assertRaisesTrigger : Obligations.AssertRaisesTrigger := by
  intro s hfault hstate hphase
  have hturn : runEvent .echo s = echoAssert s := by simp [runEvent, stepEcho, hfault, hstate, hphase]
  rw [hturn, echoAssert]
  refine ⟨encodeTd_eq_matchWord_or_port _, fun bk hbank => ?_, fun habsent => ?_⟩
  · rw [State.writeTrigger_present true hbank]
    exact afterTransaction_of_no_fault _ hfault
  · exact afterTransaction_absent _ _ hfault habsent

/-- Settles O40: held, or the write of 0 and the start of the wait. -/
theorem holdEndsTrigger : Obligations.HoldEndsTrigger := by
  intro s hfault hstate hphase
  have hturn : runEvent .echo s = echoHold s := by simp [runEvent, stepEcho, hfault, hstate, hphase]
  rw [hturn, echoHold]
  refine ⟨fun hheld => if_pos hheld, fun hdone => ?_⟩
  rw [if_neg (by omega)]
  refine ⟨fun bk hbank => ?_, fun habsent => ?_⟩
  · rw [State.writeTrigger_present false hbank]
    exact afterTransaction_of_no_fault _ hfault
  · exact afterTransaction_absent _ _ hfault habsent

/-- R191: the timeout has not expired while the wait is no longer than it. -/
theorem State.echoExpired_eq_false (h : ∀ t, s.cfg.echoTimeoutUs = some t → s.clk - s.echo.tWait ≤ t) :
    s.echoExpired = false := by
  cases htimeout : s.cfg.echoTimeoutUs with
  | none => simp [State.echoExpired, htimeout]
  | some t => simpa [State.echoExpired, htimeout] using h t htimeout

/-- With no fault and no timeout, the turn of a wait state's `SAMPLE` is the sample for its edge. -/
theorem stepEcho_sample {edge : Bool} (hfault : s.echo.fault = none)
    (hstate : s.echo.state = if edge then .waitRise else .waitFall) (hphase : s.echo.phase = .sample)
    (hwait : s.echoExpired = false) : stepEcho s = echoSample edge s := by
  cases edge
  · simp_all [stepEcho, echoSampleFall]
  · simp_all [stepEcho, echoSampleRise]

/-- Settles O41: the read of the pads, then the comparison with the level waited for. -/
theorem samplesDetectEdges : Obligations.SamplesDetectEdges := by
  intro s edge hfault hstate hphase hwait
  have hturn : runEvent .echo s = echoSample edge s :=
    stepEcho_sample hfault hstate hphase (State.echoExpired_eq_false hwait)
  rw [hturn, echoSample]
  refine ⟨fun bk hbank hbit => ⟨laneWord bk.ext[s.cfg.echoPort] (Config.freeWord s.draws),
    BitVec.extractLsb'_append_eq_right, ?_⟩, fun habsent => ?_⟩
  · rw [State.readEcho_present hbank]
    refine (afterTransaction_of_no_fault _ (by exact hfault)).trans ?_
    simp [pinLevel_laneWord _ _ hbit, hphase, Bool.eq_not]
  · exact afterTransaction_absent _ _ hfault habsent

/-- Settles O42: the two `STAMP` steps are dispatched whatever the timeout. -/
theorem stampsRecordTheClock : Obligations.StampsRecordTheClock := by
  intro s hfault hphase
  refine ⟨fun hstate => ?_, fun hstate => ?_⟩
  · simp [runEvent, stepEcho, hfault, hstate, hphase, echoStampRise]
  · simp [runEvent, stepEcho, hfault, hstate, hphase, echoStampFall]

/-- Settles O44: held, or over with the last cycle, or on to the next. -/
theorem gapEndsCycle : Obligations.GapEndsCycle := by
  intro s hfault hstate hphase
  have hturn : runEvent .echo s = echoGap s := by simp [runEvent, stepEcho, hfault, hstate, hphase]
  rw [hturn, echoGap]
  refine ⟨fun hheld => if_pos hheld, fun hdone => ?_⟩
  rw [if_neg (by omega)]
  refine ⟨fun n hn hover => ?_, fun hmore => ?_⟩
  · have hcycles : s.cyclesOver = true := by simp [State.cyclesOver, hn, hover]
    rw [if_pos hcycles]
  · have hcycles : s.cyclesOver = false := by
      cases hn : s.cfg.nCycles with
      | none => simp [State.cyclesOver, hn]
      | some n => simpa [State.cyclesOver, hn] using hmore n hn
    rw [if_neg (by simp [hcycles])]

/-- Settles O45: an expired timeout comes before the sample in both wait states. -/
theorem timeoutStopsEcho : Obligations.TimeoutStopsEcho := by
  intro s t hfault hstate hphase htimeout hlate
  have hexpired : s.echoExpired = true := by simp [State.echoExpired, htimeout, hlate]
  have hturn : runEvent .echo s = echoTimeout s := by
    rcases hstate with hstate | hstate
    · simp [runEvent, stepEcho, echoSampleRise, hfault, hstate, hphase, hexpired]
    · simp [runEvent, stepEcho, echoSampleFall, hfault, hstate, hphase, hexpired]
  rw [hturn, echoTimeout, hfault, recordFault_none]

end Sys2Proof.Machine
end

section
/-! What D30 cannot do (43_echo_timer.md section 3; logs 10 and 11): see an edge on a constant LOW line, or stop the
machine in a state that meets its invariant. -/

namespace Sys2Proof.Machine

variable {s t u : State} {e : Event}

/-! The constant LOW echo. -/

theorem NoEdgeYet.of_echo_eq (h : NoEdgeYet s) (hecho : t.echo = s.echo) : NoEdgeYet t := by
  rwa [NoEdgeYet, hecho]

/-- A fault of D30 brings no edge. -/
theorem NoEdgeYet.of_faulted {f : Option FaultRec} (h : NoEdgeYet s)
    (hecho : t.echo = { s.echo with fault := f, state := .faulted, phase := .none }) : NoEdgeYet t := by
  obtain ⟨hreports, hprev, -⟩ := h
  simp [NoEdgeYet, hecho, hreports, hprev]

theorem NoEdgeYet.requested {r : Request} (h : NoEdgeYet s) (hu : issue .echo r s = .next u) : NoEdgeYet u := by
  obtain ⟨-, -, hecho | ⟨f, -, hecho⟩⟩ := issue_echo hu
  · exact h.of_echo_eq hecho
  · exact h.of_faulted hecho

/-- Where the line is LOW, a read of it that did not fault has returned LOW. -/
theorem EchoLow.readEcho (hlow : EchoLow s) (hbit : s.cfg.echoBit ≤ 7) (hu : s.readEcho = .next u)
    (hnone : u.echo.fault = none) : pinLevel u.bus.rdata u.cfg.echoBit = false := by
  cases hbank : s.banks[s.cfg.echoBank]? with
  | none =>
    rw [State.readEcho, issue_encode_absent .echo _ hbank] at hu
    obtain rfl := Host.Outcome.next.inj hu
    simpa [State.raise_echo] using congrArg Option.isSome hnone
  | some bk =>
    rw [State.readEcho_present hbank] at hu
    obtain rfl := Host.Outcome.next.inj hu
    exact (pinLevel_laneWord _ _ hbit).trans (hlow bk hbank)

/-- D30's turn on a LOW line: no step leaves `WAIT_RISE`, for the sample sees no edge. -/
theorem NoEdgeYet.of_stepEcho (h : NoEdgeYet s) (hlow : EchoLow s) (hbit : s.cfg.echoBit ≤ 7)
    (ht : stepEcho s = .next t) : NoEdgeYet t := by
  obtain ⟨-, -, hstamp, hfall, hcomplete⟩ := id h
  rcases stepEcho_cases ht with rfl | ⟨-, hassert | hhold | hsample | htimeout | hrise | hfallen | hreport | hgap⟩
  · exact h
  · obtain ⟨-, -, u, hu, ⟨-, rfl⟩ | ⟨-, rfl⟩⟩ := hassert
    · exact h.requested hu
    · obtain ⟨hreports, hprev, -, hfall, hcomplete⟩ := h.requested hu
      exact ⟨hreports, hprev, by simp, hfall, hcomplete⟩
  · obtain ⟨-, -, -, u, hu, ⟨-, rfl⟩ | ⟨-, rfl⟩⟩ := hhold
    · exact h.requested hu
    · obtain ⟨hreports, -⟩ := h.requested hu
      exact ⟨hreports, rfl, by simp, by simp, by simp⟩
  · obtain ⟨edge, hstate, -, -, u, hu, ⟨-, rfl⟩ | ⟨hnone, rfl⟩⟩ := hsample
    · exact h.requested hu
    · obtain rfl : edge = true := by
        by_contra hedge
        exact hfall (by simpa [hedge] using hstate)
      have hlevel := hlow.readEcho hbit hu hnone
      obtain ⟨hreports, hprev, hstamp, hfall, hcomplete⟩ := h.requested hu
      exact ⟨hreports, hlevel, by simpa [hlevel] using hstamp, hfall, hcomplete⟩
  · obtain ⟨-, -, -, rfl⟩ := htimeout
    exact h.of_faulted rfl
  · obtain ⟨-, hphase, -⟩ := hrise
    exact absurd hphase hstamp
  · obtain ⟨hstate, -⟩ := hfallen
    exact absurd hstate hfall
  · obtain ⟨hstate, -⟩ := hreport
    exact absurd hstate hcomplete
  · obtain ⟨hstate, -⟩ := hgap
    exact absurd hstate hcomplete

theorem NoEdgeYet.of_runEvent (h : NoEdgeYet s) (hlow : EchoLow s) (hbit : s.cfg.echoBit ≤ 7)
    (ht : runEvent e s = .next t) : NoEdgeYet t := by
  rcases runEvent_cases ht with rfl | hsw | hext | hfetch | hstart | henv | hclk | hecho
  · exact h
  · obtain ⟨r, -, -, -, ht⟩ := hsw
    exact h.of_echo_eq (issue_not_echo (by simp) ht)
  · obtain ⟨r, -, -, -, ht⟩ := hext
    exact h.of_echo_eq (issue_not_echo (by simp) ht)
  · obtain ⟨a, -, -, -, rfl | rfl⟩ := hfetch
    all_goals exact h.of_echo_eq (by simp [State.raise_echo])
  · obtain ⟨-, -, -, ⟨-, rfl⟩ | ⟨-, -, rfl⟩⟩ := hstart
    · exact h.of_echo_eq (by simp [State.raise_echo])
    · exact ⟨rfl, rfl, by simp, by simp, by simp⟩
  · obtain ⟨b, p, v, bk, -, -, rfl⟩ := henv
    exact h.of_echo_eq rfl
  · obtain ⟨d, -, -, rfl | rfl⟩ := hclk
    all_goals exact h.of_echo_eq rfl
  · exact h.of_stepEcho hlow hbit hecho.2

/-- Settles O48: the turn starts from the pads and D30's registers of the state. -/
theorem lowEchoReportsNothing : Obligations.LowEchoReportsNothing := by
  intro s t h hlow hbit ht
  have hlow' : EchoLow s.nextEvent.2 := by simpa [EchoLow] using hlow
  exact (h.of_echo_eq (by simp)).of_runEvent hlow' (by simpa using hbit) ht

/-! No stop but that of an ill-formed start. -/

theorem issue_completes (m : Master) (r : Request) (s : State) : ∃ t, issue m r s = .next t :=
  have ⟨t, ht, _⟩ := issue_cases m r s
  ⟨t, ht⟩

theorem afterTransaction_completes {o : Host.Outcome State Fault Refusal} (f : State → State) (h : ∃ u, o = .next u) :
    ∃ t, afterTransaction o f = .next t := by
  obtain ⟨u, rfl⟩ := h
  simp only [afterTransaction]
  split <;> exact ⟨_, rfl⟩

/-- Where the invariant holds `REPORT` has both timestamps, in order, and a divisor. -/
theorem EchoInv.echoReport_completes (h : EchoInv s) (hstate : s.echo.state = .complete)
    (hphase : s.echo.phase = .report) : ∃ t, echoReport s = .next t := by
  obtain ⟨r, f, hrise, hfall, hle⟩ := h.fallen hphase
  have hwf := h.configured (by simp [hstate])
  obtain ⟨-, -, -, -, hdiv⟩ := (echoConfigurationConditions s.cfg).mp hwf
  exact ⟨_, echoReport_of_ordered hrise hfall hle (by omega)⟩

theorem EchoInv.stepEcho_completes (h : EchoInv s) : ∃ t, stepEcho s = .next t := by
  unfold stepEcho
  split
  · exact ⟨s, rfl⟩
  split
  · exact afterTransaction_completes _ (issue_completes ..)
  · unfold echoHold
    split
    · exact ⟨s, rfl⟩
    · exact afterTransaction_completes _ (issue_completes ..)
  · unfold echoSampleRise
    split
    · exact ⟨_, rfl⟩
    · exact afterTransaction_completes _ (issue_completes ..)
  · exact ⟨_, rfl⟩
  · unfold echoSampleFall
    split
    · exact ⟨_, rfl⟩
    · exact afterTransaction_completes _ (issue_completes ..)
  · exact ⟨_, rfl⟩
  · next hstate hphase => exact h.echoReport_completes hstate hphase
  · unfold echoGap
    split_ifs <;> exact ⟨_, rfl⟩
  · exact ⟨s, rfl⟩

/-- `SW`'s turn completes unless it is an ill-formed start. -/
theorem stepSw_outcomes (s : State) :
    (∃ t, stepSw s = .next t) ∨
      stepSw s = .refused .illFormedEcho ∧ s.cfg.echoWellFormed = false ∧ s.sw.prog[s.sw.k]? = some .echoStart := by
  unfold stepSw
  split
  · exact .inl ⟨s, rfl⟩
  split
  · exact .inl ⟨s, rfl⟩
  · exact .inl (issue_completes ..)
  · unfold fetchAt
    split <;> exact .inl ⟨_, rfl⟩
  · next hitem =>
    unfold echoStart
    split_ifs with hbusy hwf
    · exact .inl ⟨_, rfl⟩
    · exact .inr ⟨rfl, hwf, hitem⟩
    · exact .inl ⟨_, rfl⟩

/-- Every turn completes where the invariant holds, unless it is `SW`'s with an ill-formed start. -/
theorem EchoInv.runEvent_outcomes (h : EchoInv s) (e : Event) :
    (∃ t, runEvent e s = .next t) ∨
      runEvent e s = .refused .illFormedEcho ∧ s.cfg.echoWellFormed = false ∧ e = .sw ∧
        s.sw.prog[s.sw.k]? = some .echoStart := by
  cases e with
  | sw =>
    rcases stepSw_outcomes s with hnext | ⟨hrefused, hwf, hitem⟩
    · exact .inl hnext
    · exact .inr ⟨hrefused, hwf, rfl, hitem⟩
  | echo => exact .inl h.stepEcho_completes
  | env b p v =>
    simp only [runEvent, stepEnv]
    split <;> exact .inl ⟨_, rfl⟩
  | clk d =>
    simp only [runEvent, stepClk]
    split_ifs <;> exact .inl ⟨_, rfl⟩
  | ext r =>
    simp only [runEvent, stepExt]
    split_ifs
    · exact .inl (issue_completes ..)
    · exact .inl ⟨s, rfl⟩

/-- Settles O49: a step that does not complete is the one refusal. -/
theorem onlyIllFormedStartStops : Obligations.OnlyIllFormedStartStops := by
  intro s h
  rcases h.of_nextEvent.runEvent_outcomes s.nextEvent.1 with ⟨t, ht⟩ | ⟨hrefused, hwf, hsw, hitem⟩
  · have ht : step s = .next t := ht
    simp [ht]
  · have hrefused : step s = .refused .illFormedEcho := hrefused
    rw [hrefused]
    refine ⟨by simp, fun r hr => ⟨(Host.Outcome.refused.inj hr).symm, ?_, hsw, ?_⟩⟩
    · simpa using hwf
    · simpa using hitem

end Sys2Proof.Machine
end

section
/-! The outputs of a bank and the state at reset (10_state.md section 3; 70_reset_and_hazards.md section 1). -/

namespace Sys2Proof.Machine

variable {s : State} {bk : Bank} {p : Port} {i : Pin}

/-! Outputs. -/

/-- A pin whose CNF or OE is `UNKNOWN` drives an unknown level (R36). -/
theorem Bank.drive_eq_unknown_of_mode (h : bk.csr.cnf[p] = .unknown ∨ bk.csr.oe[p] = .unknown) :
    bk.drive p i = .unknown := by
  unfold Bank.drive
  split
  · next hcnf hoe => simp [hcnf, hoe] at h
  · rfl

/-- Settles O51: the branches of R36. -/
theorem padDriveFollowsRegisters : Obligations.PadDriveFollowsRegisters := fun _ _ _ =>
  ⟨Bank.drive_eq_unknown_of_mode, fun _ _ hcnf hoe =>
    ⟨Bank.drive_eq_sfio hcnf hoe, Bank.drive_eq_highZ hcnf hoe, fun hc he =>
      ⟨Bank.drive_eq_unknown_of_out hcnf hoe hc he, fun _ => Bank.drive_eq_driven hcnf hoe hc he⟩⟩⟩

theorem Bank.irq_eq_lo : bk.irq = .lo ↔ ∀ p, bk.irqPort p = .lo := by
  simp [Bank.irq, foldl_triOr_eq_lo]

/-- Settles O52: the OR over the ports of the OR over the pins, definitely 1 or definitely 0. -/
theorem irqIsOrOfEnabledPending : Obligations.IrqIsOrOfEnabledPending := by
  refine fun bk => ⟨?_, ?_, fun h => Bank.irq_eq_lo.mpr fun p => ?_⟩
  · simp only [Bank.irq_eq_hi, Bank.irqPort_eq_hi, Bank.irqTerm_eq_hi, exists_and_left]
  · simp only [Bank.irq_eq_lo, Bank.irqPort_eq_lo, Bank.irqTerm_eq_lo]
  · obtain ⟨w, hw, hlow⟩ := h p
    exact Bank.irqPort_eq_lo_of_low_byte_zero hw hlow

/-- Status bits that are all `UNKNOWN` under enables that are too leave `irq` `UNKNOWN`. -/
theorem Bank.irq_eq_unknown (hsta : ∀ (p : Port) (i : Pin), (bk.sta[p])[i] = .unknown)
    (henb : ∀ p : Port, bk.csr.intEnb[p] = .unknown) : bk.irq = .unknown := by
  obtain ⟨hhi, hlo, -⟩ := irqIsOrOfEnabledPending bk
  cases h : bk.irq with
  | lo =>
    rcases hlo.mp h 0 0 with hlo | ⟨w, hw, -⟩
    · cases (hsta 0 0).symm.trans hlo
    · cases (henb 0).symm.trans hw
  | hi =>
    obtain ⟨p, i, w, hhi, -⟩ := hhi.mp h
    cases (hsta p i).symm.trans hhi
  | unknown => rfl

/-! Reset. -/

/-- A bank at reset is one of `CSR_RESET` on its free pads. -/
theorem bank_of_reset {b : Nat} (h : State.reset.banks[b]? = some bk) : ∃ pads, bk = Bank.reset Csr.unknown pads := by
  obtain ⟨pads, -, rfl⟩ := List.mem_map.mp (List.mem_of_getElem? h)
  exact ⟨pads, rfl⟩

theorem Csr.get_unknown (r : StorageReg) (p : Port) : Csr.unknown.get r p = .unknown := by
  cases r <;> simp [Csr.get, Csr.unknown]

/-- Settles O53: every bank is `CSR_RESET` with `UNKNOWN` status bits, and the other registers are written out at
reset. -/
theorem resetState : Obligations.ResetState := by
  refine ⟨fun b bk hbank => ?_, by simp [State.reset, State.resetWith], rfl, rfl, rfl, rfl, rfl, rfl, rfl, rfl,
    rfl, rfl, rfl, rfl, rfl, rfl, rfl, rfl, rfl, rfl, rfl, rfl, rfl, rfl⟩
  obtain ⟨pads, rfl⟩ := bank_of_reset hbank
  have hsta (p : Port) (i : Pin) : ((Bank.reset Csr.unknown pads).sta[p])[i] = .unknown := by
    simp [Bank.reset]
  exact ⟨Csr.get_unknown, hsta, rfl, fun p i => Bank.drive_eq_unknown_of_mode (.inl (Csr.get_unknown .cnf p)),
    Bank.irq_eq_unknown hsta (Csr.get_unknown .intEnb)⟩

end Sys2Proof.Machine
end

section
/-! Software (30_encoding.md section 4; 41_pin_sequences.md; 60_exceptions.md section 1): the pin sequences as
requests, the assembler and the launch. -/

namespace Sys2Proof.Machine

variable {s t : State} {b : Nat} {bk : Bank} {p : Port}

/-! The requests of the pin sequences. -/

/-- A storage read on a bank that exists delivers the slot's word. -/
theorem issue_storage_read (m : Master) (r : StorageReg) (p : Port) (h : s.banks[b]? = some bk) :
    issue m (encode b (opcode false r.reg p 0)) s =
      .next (((s.grant m).select b).deliver (readValue s.cfg r (bk.csr.get r p) (Config.freeWord s.draws)) 1) := by
  have hb : b < s.banks.length := (List.getElem?_eq_some_iff.mp h).1
  rw [issue_encode m _ hb, exec_opcode_storage_read]
  exact State.readStorage_some (s := (s.grant m).select b) r p h

/-- A write to INT_STA or INT_CLR on a bank that exists completes, and of the banks it changes the status bits of its
port alone. -/
theorem issue_status_write {i : Instr} {r : Reg} {d : Word32} (m : Master) (hi : ∀ s, exec i s = s.writeStatus r p d)
    (h : s.banks[b]? = some bk) :
    ∃ t, issue m (encode b i) s = .next t ∧
      t.banks = s.banks.set b { bk with sta := bk.sta.set p (clearStatus bk.sta[p] d) } := by
  have hb : b < s.banks.length := (List.getElem?_eq_some_iff.mp h).1
  rw [issue_encode m _ hb, hi]
  exact ⟨_, State.access_some (s := (s.grant m).select b) r p _ h, by simp⟩

/-- A write of a bank that existed leaves there the bank it stored. -/
theorem getElem?_of_banks_eq_set {bk' : Bank} (h : t.banks = s.banks.set b bk') (hbank : s.banks[b]? = some bk) :
    t.banks[b]? = some bk' := by
  rw [h, List.getElem?_set_self (List.getElem?_eq_some_iff.mp hbank).1]

/-- Settles O55: a storage write, whose zero word gates the port off and is read back. -/
theorem pinNointDisablesPort : Obligations.PinNointDisablesPort := by
  refine ⟨fun n b q hq => by simp [Line.wellFormed, hq], fun s b p bk hbank hnone => ?_⟩
  refine ⟨by simp [itemsOf, itemOf, hnone], fun m => ?_⟩
  obtain ⟨t, ht, hbanks, hsw, hecho, hext⟩ := issue_storage_write m .intEnb p 0x00000000 hbank
  have henb : (bk.csr.set .intEnb p (.word 0)).get .intEnb p = .word 0 := Csr.get_set_same ..
  refine ⟨t, _, ht, hbanks, rfl, Bank.irqPort_eq_lo_of_low_byte_zero henb (by decide), hsw, hecho, hext,
    fun hmode => ?_⟩
  have hbank' := getElem?_of_banks_eq_set hbanks hbank
  have hmode' : t.cfg.reservedRead = .asWritten := by rw [(issue_frame ht).1, hmode]
  refine ⟨_, issue_storage_read m .intEnb p hbank', ?_⟩
  simp [readValue_asWritten, hmode']

/-- The lanes of `INT_CLR_ALL` are all 1. -/
theorem intClrAll_lane : ∀ i : Pin, (0x00FFFFFF : Word32).getLsbD i = true := by
  decide

/-- Settles O56: of the three writes the last leaves every status bit 0 and the second leaves the level word; that
word makes the next level change an event. -/
theorem pinEdgecfgArmsLatch : Obligations.PinEdgecfgArmsLatch := by
  intro s b p bk hbank hack hclr
  refine ⟨by simp [itemsOf, itemOf, hack, hclr], fun m => ?_⟩
  obtain ⟨t, ht, htbanks⟩ := issue_status_write m (i := .wrIntSta p 0x000000FF) (fun _ => rfl) hbank
  have htbank := getElem?_of_banks_eq_set htbanks hbank
  obtain ⟨u, hu, hubanks, -⟩ := issue_storage_write m .intLvl p s.cfg.edgeBoth htbank
  have hubank := getElem?_of_banks_eq_set hubanks htbank
  obtain ⟨v, hv, hvbanks⟩ := issue_status_write m (i := .wrIntClr p 0x00FFFFFF) (fun _ => rfl) hubank
  rw [hubanks, htbanks, List.set_set, List.set_set] at hvbanks
  refine ⟨t, u, v, _, ht, hu, hv, hvbanks, fun i => ?_, fun q hq => ?_, rfl, rfl, fun draw x i hx => ?_⟩
  · rw [getElem_set_port, if_pos rfl, clearStatus_get, if_pos (intClrAll_lane i)]
  · simp only [getElem_set_port, if_neg hq]
  · have hlvl : (bk.csr.set .intLvl p (.word s.cfg.edgeBoth)).get .intLvl p = .word s.cfg.edgeBoth :=
      Csr.get_set_same ..
    rw [Bank.envStep_sta_edgeBoth hlvl, if_neg hx.symm]

/-- Settles O57: the OUT word is the mask or 0, and the word of the read is the pads'. -/
theorem pinSetAndGetExpand : Obligations.PinSetAndGetExpand := by
  refine ⟨fun cfg b p m => by simp [itemsOf, itemOf, levelWord], fun s p bk k hbank hbit hk => ?_⟩
  have hbit : getBit s.cfg k ≤ 7 := by
    cases k with
    | none => exact hbit
    | some j => exact hk j rfl
  refine ⟨by simp [itemsOf, itemOf], _, State.access_some _ _ _ hbank, ?_⟩
  rw [State.deliver_bus]
  exact pinLevel_laneWord _ _ hbit

/-! The assembler (R97, R99). -/

/-- Settles O60: the eight names are the eight registers. -/
theorem plainLinesExpand : Obligations.PlainLinesExpand := by
  refine fun cfg b p d => ⟨rfl, rfl, fun x hx => ?_⟩
  have hname : Reg.ofName x.1 = some x.2 := by
    revert x
    decide
  simp [itemsOf, itemOf, hname]

/-- Every request among the items is an encoded instruction on one of `n` banks. -/
def ItemsEncoded (n : Nat) (items : List SwItem) : Prop :=
  ∀ r, SwItem.bus r ∈ items → ∃ b i, b < n ∧ r = encode b i

theorem ItemsEncoded.map_itemOf {n : Nat} (hb : b < n) (instrs : List Instr) :
    ItemsEncoded n (instrs.map (itemOf b)) := by
  intro r hr
  obtain ⟨i, -, hi⟩ := List.mem_map.mp hr
  exact ⟨b, i, hb, (SwItem.bus.inj hi).symm⟩

theorem ItemsEncoded.append {n : Nat} {l l' : List SwItem} (h : ItemsEncoded n l) (h' : ItemsEncoded n l') :
    ItemsEncoded n (l ++ l') := fun r hr =>
  (List.mem_append.mp hr).elim (h r) (h' r)

/-- A line that passes the checks has items, and their requests are encoded instructions. -/
theorem itemsOf_wellFormed (cfg : Config) {n : Nat} {l : Line} (h : l.wellFormed n = true) :
    ∃ items, itemsOf cfg l = some items ∧ ItemsEncoded n items := by
  cases l with
  | blank => exact ⟨_, rfl, by simp [ItemsEncoded]⟩
  | echoStart => exact ⟨_, rfl, by simp [ItemsEncoded]⟩
  | rd b name q =>
    simp only [Line.wellFormed, Bool.and_eq_true, decide_eq_true_eq] at h
    obtain ⟨⟨hb, hname⟩, -⟩ := h
    obtain ⟨r, hr⟩ := Option.isSome_iff_exists.mp hname
    exact ⟨[itemOf b (opcode false r (portOf q) 0)], by simp [itemsOf, hr], .map_itemOf hb [_]⟩
  | wr b name q d =>
    simp only [Line.wellFormed, Bool.and_eq_true, decide_eq_true_eq] at h
    obtain ⟨⟨⟨hb, hname⟩, -⟩, -⟩ := h
    obtain ⟨r, hr⟩ := Option.isSome_iff_exists.mp hname
    exact ⟨[itemOf b (opcode true r (portOf q) (BitVec.ofNat 32 d))], by simp [itemsOf, hr], .map_itemOf hb [_]⟩
  | pinDir b q out =>
    simp only [Line.wellFormed, Bool.and_eq_true, decide_eq_true_eq] at h
    exact ⟨_, rfl, .map_itemOf h.1 [_, _]⟩
  | pinNoint b q =>
    simp only [Line.wellFormed, Bool.and_eq_true, decide_eq_true_eq] at h
    exact ⟨_, rfl, .map_itemOf h.1 [_]⟩
  | pinEdgecfg b q =>
    simp only [Line.wellFormed, Bool.and_eq_true, decide_eq_true_eq] at h
    exact ⟨_, rfl, .map_itemOf h.1 [_, _, _]⟩
  | pinSet b q v m =>
    simp only [Line.wellFormed, Bool.and_eq_true, decide_eq_true_eq] at h
    obtain ⟨⟨⟨hb, -⟩, -⟩, -⟩ := h
    exact ⟨_, rfl, .map_itemOf hb [_]⟩
  | pinGet b q k =>
    simp only [Line.wellFormed, Bool.and_eq_true, decide_eq_true_eq] at h
    obtain ⟨⟨hb, -⟩, -⟩ := h
    exact ⟨_, rfl, .map_itemOf hb [_]⟩

theorem assembleFrom_refused (cfg : Config) {n : Nat} {good : List Line} {bad : Line} (rest : List Line)
    (hgood : ∀ l ∈ good, l.wellFormed n = true) (hbad : bad.wellFormed n = false) (k : Nat) :
    assembleFrom cfg n k (good ++ bad :: rest) = .refusedLine (k + good.length) := by
  induction good generalizing k with
  | nil => simp [assembleFrom, hbad]
  | cons l good ih =>
    obtain ⟨hl, hgood⟩ := List.forall_mem_cons.mp hgood
    obtain ⟨items, hitems, -⟩ := itemsOf_wellFormed cfg hl
    simp [assembleFrom, hl, hitems, ih hgood (k + 1)]
    omega

theorem assembleFrom_items (cfg : Config) {n : Nat} {ls : List Line} (h : ∀ l ∈ ls, l.wellFormed n = true) (k : Nat) :
    ∃ items, assembleFrom cfg n k ls = .items items ∧ ItemsEncoded n items := by
  induction ls generalizing k with
  | nil => exact ⟨[], rfl, by simp [ItemsEncoded]⟩
  | cons l ls ih =>
    obtain ⟨hl, hls⟩ := List.forall_mem_cons.mp h
    obtain ⟨first, hfirst, hencodes⟩ := itemsOf_wellFormed cfg hl
    obtain ⟨rest, hrest, hencodes'⟩ := ih hls (k + 1)
    exact ⟨first ++ rest, by simp [assembleFrom, hl, hfirst, hrest], hencodes.append hencodes'⟩

/-- Settles O58: the checks form by form, the first line they refuse, and the requests of the lines they pass. -/
theorem assemblerRefusesWholeProgram : Obligations.AssemblerRefusesWholeProgram := by
  refine ⟨fun n b p => ?_, fun cfg n good bad rest hgood hbad => ?_, fun cfg n ls h => ?_,
    fun s ls n hrefused hfault => ?_⟩
  · refine ⟨rfl, rfl, fun r => ⟨?_, fun d => ?_⟩, fun out => ?_, ?_, ?_, fun v m => ?_, fun k => ?_⟩
    · simp only [Line.wellFormed, Bool.and_eq_true, decide_eq_true_eq, Reg.ofName_isSome]
      tauto
    · simp [Line.wellFormed]
    · simp [Line.wellFormed]
    · simp [Line.wellFormed]
    · simp [Line.wellFormed]
    · simp [Line.wellFormed, Option.all_eq_true, Nat.lt_succ_iff, and_assoc]
    · simp [Line.wellFormed, Option.all_eq_true, and_assoc]
  · simpa [assemble] using assembleFrom_refused cfg rest hgood hbad 0
  · obtain ⟨items, hitems, hencodes⟩ := assembleFrom_items cfg h 0
    refine ⟨items, hitems, fun r hr => ?_⟩
    obtain ⟨b, i, hb, rfl⟩ := hencodes r hr
    exact ⟨b, i, decodeRequest_encode cfg i hb⟩
  · simp [State.launch, hrefused, hfault]

/-- Settles O59: the launch by its mapping, and `SW`'s turn after a fault. -/
theorem launchNeedsMapping : Obligations.LaunchNeedsMapping := by
  intro s ls hfault
  have hlaunch : (s.launch false ls).sw = { prog := [], k := 0, rdlog := [], fault := some .mapping } := by
    simp [State.launch, hfault]
  refine ⟨hlaunch, ?_, fun items hitems => by simp [State.launch, hitems, hfault]⟩
  obtain ⟨hstopped, -⟩ := stoppedAgentsStandStill (s.launch false ls)
  exact hstopped (.inl (by simp [hlaunch]))

end Sys2Proof.Machine
end
